-- ==== Sys2Proof/Word.lean ====
section
/-! DEFINITION. The widths of the core's data (00_scope.md R5, R10): bytes of 8 bits, words of 32 bits, all unsigned. -/

namespace Sys2Proof

/-- BYTE, `u8` (R5, R10). -/
abbrev Byte := BitVec 8

/-- WORD, `u32` (R5, R10). `+` on words is addition modulo 2^32 (R7, R100). -/
abbrev Word := BitVec 32

/-- Format BLOCK as words (R73): sixteen words, kept as a list in the contract functions. -/
abbrev Block := List Word

end Sys2Proof
end

