-- ==== Sys2Proof/Config.lean ====
section
/-! DEFINITION. What the spec leaves to the platform (00_scope.md R6, 93 U13), and the free values: constants without a body that
stand where the spec says a register is unspecified (R10, R40, R230) or states no value. Nothing can be proved about a free value. -/

namespace Sys2Proof.Config

/-- LEN_WIDTH, the width of START's length operand in bits (R6, R35; D3). -/
def lenWidth : Nat := 64

/-- MAX_LEN, the largest message length in bytes (R6, R201; D3). The model takes the spec's own value (log 16, DESIGN CHOICE). -/
def maxLen : Nat := 2 ^ 61 - 1

/-- NINST, the number of instances; open, default 1 (R6, R215; D20; log 15). -/
def ninst : Nat := 1

/-! Free values of the reset action (R230: every register but PHASE and FCODE becomes unspecified), one for each reset (log 6). -/

/-- LEN after the reset action numbered by the argument. -/
opaque unspecLen : Nat → BitVec 64
/-- BITLEN after a reset action. -/
opaque unspecBitlen : Nat → BitVec 64
/-- NBLK after a reset action. -/
opaque unspecNblk : Nat → BitVec 56
/-- BLK after a reset action. -/
opaque unspecBlk : Nat → BitVec 56
/-- T after a reset action. -/
opaque unspecT : Nat → BitVec 6
/-- H[0..7] after a reset action. -/
opaque unspecHash : Nat → Vector Word 8
/-- a..h after a reset action, in the order a, b, ..., h. -/
opaque unspecWork : Nat → Vector Word 8
/-- W[0..63] after a reset action. -/
opaque unspecW : Nat → Vector Word 64
/-- DIGEST[0..31] after a reset action, and what a read of an unspecified DIGEST answers (U5, any value; log 7). -/
opaque unspecDigest : Nat → Vector Byte 32

/-! Free values of counters whose exact value does not fit the register (R10, R109 say this is never reached; log 11). -/

/-- BITLEN where 8 * LEN does not fit 64 bits, a function of LEN. -/
opaque bitlenBeyond : BitVec 64 → BitVec 64
/-- NBLK where (LEN + 8) div 64 + 1 does not fit 56 bits, a function of LEN. -/
opaque nblkBeyond : BitVec 64 → BitVec 56
/-- The length field of Pad where 8 * L does not fit 64 bits, a function of L (R125, U8: Pad has no value there; log 26). -/
opaque padBitsBeyond : Nat → BitVec 64
/-- BLK where BLK + 1 does not fit 56 bits, a function of NBLK. -/
opaque blkBeyond : BitVec 56 → BitVec 56

end Sys2Proof.Config
end

