-- ==== Sys2Proof/Syntax.lean ====
section
/-! DEFINITION. The operations and commands of spec/opcode_table.json, one constructor a row (30_encoding.md R80, R81). Operands are
implicit (R82), but for START's length. -/

namespace Sys2Proof

/-- The engine operations (OP rows, R80) and the host commands (CMD rows, R81). -/
inductive Instr where
  /-- WAIT.IDLE, OP 0x0 (R185). -/
  | waitIdle
  /-- PAD, OP 0x1 (R120). -/
  | pad
  /-- INITH, OP 0x2 (R182). -/
  | inith
  /-- LOADBLK, OP 0x3 (R132). -/
  | loadblk
  /-- EXPAND, OP 0x4 (R141). -/
  | expand
  /-- INITWR, OP 0x5 (R150). -/
  | initwr
  /-- ROUND, OP 0x6 (R151). -/
  | round
  /-- FEEDFWD, OP 0x7 (R153). -/
  | feedfwd
  /-- SERIALIZE, OP 0x8 (R171). -/
  | serialize
  /-- WAIT.DONE, OP 0x9 (R185). -/
  | waitDone
  /-- WAIT.FAULT, OP 0xF (R185). -/
  | waitFault
  /-- NOCMD, CMD 0b00 (R181). -/
  | nocmd
  /-- START L, CMD 0b01 (R180): the message length in bytes, exact (R10); the port carries 64 bits of it (R81, WellFormed.lean). -/
  | start (len : Nat)
  deriving DecidableEq, Repr

end Sys2Proof
end

