-- ==== Sys2Proof/WellFormed.lean ====
section
/-! DEFINITION. Which terms of Instr an encoding can carry: START's length operand has LEN_WIDTH = 64 bits (30_encoding.md R81,
10_state.md R35). A length above MAX_LEN is well formed: it is the LEN_OVERFLOW fault, not a reserved form (R85). -/

namespace Sys2Proof

/-- The instruction has an encoding. -/
def Instr.wf : Instr → Bool
  | .start len => decide (len < 2 ^ Config.lenWidth)
  | .waitIdle | .pad | .inith | .loadblk | .expand | .initwr | .round | .feedfwd | .serialize | .waitDone | .waitFault
  | .nocmd => true

end Sys2Proof
end

