-- ==== Sys2Proof/Decode.lean ====
section
/-! DEFINITION. The two code spaces of the core and their decoders, total (30_encoding.md R80, R81, R84), rejecting the reserved codes
by name (R85); the encoder, written from the same tables; and the host's view of a table word. -/

namespace Sys2Proof

/-! The codes of PHASE (10_state.md R31), which are the OP codes (R80). -/

/-- IDLE. -/
abbrev Phase.idle : BitVec 4 := 0x0
/-- PAD. -/
abbrev Phase.pad : BitVec 4 := 0x1
/-- INITH. -/
abbrev Phase.inith : BitVec 4 := 0x2
/-- LOAD. -/
abbrev Phase.load : BitVec 4 := 0x3
/-- EXPAND. -/
abbrev Phase.expand : BitVec 4 := 0x4
/-- INITWR. -/
abbrev Phase.initwr : BitVec 4 := 0x5
/-- ROUND. -/
abbrev Phase.round : BitVec 4 := 0x6
/-- FEED. -/
abbrev Phase.feed : BitVec 4 := 0x7
/-- SER. -/
abbrev Phase.ser : BitVec 4 := 0x8
/-- DONE. -/
abbrev Phase.done : BitVec 4 := 0x9
/-- FAULT. -/
abbrev Phase.fault : BitVec 4 := 0xF

/-- What a decoder reads: a 4-bit operation code (the value of PHASE, R80), or a 2-bit command code with the 64-bit length operand the
host presents beside it (R81). -/
inductive Code where
  | op (code : BitVec 4)
  | cmd (code : BitVec 2) (len : BitVec 64)
  deriving DecidableEq, Repr

/-- Why a code has no instruction (R85). -/
inductive DecodeError where
  /-- OP and PHASE codes 0xA to 0xE. -/
  | reservedOp (code : BitVec 4)
  /-- CMD codes 0b10 and 0b11. -/
  | reservedCmd (code : BitVec 2)
  deriving DecidableEq, Repr

/-- R80, R84: the operation a 4-bit code names. -/
def decodeOp (code : BitVec 4) : Except DecodeError Instr :=
  match code.toNat with
  | 0x0 => .ok .waitIdle
  | 0x1 => .ok .pad
  | 0x2 => .ok .inith
  | 0x3 => .ok .loadblk
  | 0x4 => .ok .expand
  | 0x5 => .ok .initwr
  | 0x6 => .ok .round
  | 0x7 => .ok .feedfwd
  | 0x8 => .ok .serialize
  | 0x9 => .ok .waitDone
  | 0xF => .ok .waitFault
  | _ => .error (.reservedOp code)

/-- R81, R84: the command a 2-bit code names, with the length operand. -/
def decodeCmd (code : BitVec 2) (len : BitVec 64) : Except DecodeError Instr :=
  match code.toNat with
  | 0b00 => .ok .nocmd
  | 0b01 => .ok (.start len.toNat)
  | _ => .error (.reservedCmd code)

/-- R84: decoding is total on both code spaces. -/
def decode : Code → Except DecodeError Instr
  | .op code => decodeOp code
  | .cmd code len => decodeCmd code len

/-- R80, R81: the code of an instruction. NOCMD has no operand; its length port is written 0 (it is not read, R181). -/
def encode : Instr → Code
  | .waitIdle => .op 0b0000
  | .pad => .op 0b0001
  | .inith => .op 0b0010
  | .loadblk => .op 0b0011
  | .expand => .op 0b0100
  | .initwr => .op 0b0101
  | .round => .op 0b0110
  | .feedfwd => .op 0b0111
  | .serialize => .op 0b1000
  | .waitDone => .op 0b1001
  | .waitFault => .op 0b1111
  | .nocmd => .cmd 0b00 0
  | .start len => .cmd 0b01 (BitVec.ofNat 64 len)

/-- The code that a table word stands for: 2 bits are the CMD space, 4 bits or a whole byte the OP space (the two spaces overlap in a
whole byte, log 13, DESIGN CHOICE). A word with a bit above its space is no code. -/
def codeOfTableWord (nbits w : Nat) : Option Code :=
  if nbits = 2 then
    if w < 4 then some (.cmd (BitVec.ofNat 2 w) 0) else none
  else if nbits = 4 ∨ nbits = 8 then
    if w < 16 then some (.op (BitVec.ofNat 4 w)) else none
  else none

/-- The instruction the decoder reads from a table word, none where it refuses. -/
def decodeTableWord (nbits w : Nat) : Option Instr :=
  match codeOfTableWord nbits w with
  | none => none
  | some c =>
    match decode c with
    | .ok i => some i
    | .error _ => none

end Sys2Proof
end

