-- ==== Sys2Proof/Machine/State.lean ====
section
/-! DEFINITION. The state of one instance of the core (10_state.md R20), the host's message memory (R37, R50), and the model's own
fields: which agent moves next, what the host has read, and the bookkeeping of unspecified values. All plain data. -/

namespace Sys2Proof.Machine

/-- The message memory MSG (R50): (index, byte) pairs in one canonical form (Memory.wf in Ops.lean). -/
abbrev Memory := List Host.Cell

/-- The working registers a..h (R22): eight separate words. -/
structure Work where
  a : Word
  b : Word
  c : Word
  d : Word
  e : Word
  f : Word
  g : Word
  h : Word
  deriving DecidableEq, Repr

/-- The hardware faults of R200. They are recorded in FCODE; they do not stop the model. -/
inductive HwFault where
  /-- LEN_OVERFLOW, code 1 (R201). -/
  | lenOverflow
  /-- BLOCK_ALIGN, code 2 (R202): raised by the contract function Split only, never by a step. -/
  | blockAlign
  deriving DecidableEq, Repr

/-- One entry of the script of turns: which agent moves, and with what (R189, R190; log 2). -/
inductive Turn where
  /-- The engine takes its step, if PHASE gives it one. -/
  | engine
  /-- The host presents a code at the CMD port with its 64-bit length operand (R35, R81). -/
  | command (code : BitVec 2) (len : BitVec 64)
  /-- READ STATUS (R183). -/
  | readStatus
  /-- READ DIGEST (R184). -/
  | readDigest
  /-- A host write to STATUS, which has no effect (R33). -/
  | writeStatus (value : BitVec 8)
  /-- Reset (R230), and what coincides with it: reset wins over it (R207; log 19). -/
  | reset (coincident : Option Instr)
  /-- The host writes one byte of its own message memory, at a 61-bit index (R37, R50, R52; log 4). -/
  | writeMsg (index : BitVec 61) (value : Byte)
  deriving DecidableEq, Repr

/-- What a port read returned to the host, its own copy (R172, R183, R184). -/
inductive Reply where
  | status (value : BitVec 8)
  | digest (value : Vector Byte 32)
  deriving DecidableEq, Repr

/-- One instance of the core with its host's side. -/
structure State where
  /-- H[0..7] (R21). -/
  hash : Vector Word 8
  /-- a..h (R22). -/
  work : Work
  /-- W[0..63] (R23). -/
  w : Vector Word 64
  /-- LEN (R24). -/
  len : BitVec 64
  /-- BITLEN (R25). -/
  bitlen : BitVec 64
  /-- NBLK (R26). -/
  nblk : BitVec 56
  /-- BLK (R27). -/
  blk : BitVec 56
  /-- T (R28). -/
  t : BitVec 6
  /-- PHASE (R31), the raw code; a state with a reserved code is refused by the step until reset (R85, U4; log 1). -/
  phase : BitVec 4
  /-- FCODE (R34), the raw code; a state with the reserved code 3 is refused by the step until reset (U4; log 25). -/
  fcode : BitVec 2
  /-- DIGEST[0..31] (R36). -/
  digest : Vector Byte 32
  /-- MSG, the host's message memory (R37, R50; log 3). -/
  msg : Memory
  /-- The model's own: the moves to come, first first; when it is empty the engine moves (log 2). -/
  turns : List Turn
  /-- The model's own: what the host has read, newest first (log 18). -/
  replies : List Reply
  /-- The model's own: SERIALIZE has written DIGEST since the last reset (R40; log 7). -/
  digestSet : Bool
  /-- The model's own: how many free values have been taken (log 6). -/
  draws : Nat
  deriving DecidableEq, Repr

/-- Why the model stops with a fault. Never a hardware fault: the spec says that no operation asks for these (93 U10). -/
inductive Fault where
  /-- Raised by the read of MSG at an index that is not below LEN (R60, U10). Safe. -/
  | msgIndexOutOfRange
  /-- Raised by LOADBLK through PadByte at an offset that is not below 64 * NBLK (R124, U10). Safe. -/
  | padByteOutOfRange
  /-- Raised by EXPAND with T below 16, where W[T-16] does not exist (R141, U10). Safe. -/
  | scheduleIndexOutOfRange
  deriving DecidableEq, Repr

/-- Why the model refuses a move. -/
inductive Refusal where
  /-- An instruction that has no meaning yet, by its mnemonic; raised by exec's arms only. Safe. -/
  | notModelled (mnemonic : String)
  /-- Raised by every move but reset when PHASE holds a reserved code 0xA to 0xE (R85, U4). Safe. -/
  | reservedPhase (code : BitVec 4)
  /-- Raised by every move but reset when FCODE holds the reserved code 3 (U4). Safe. -/
  | reservedFcode (code : BitVec 2)
  /-- Raised when the host presents a reserved CMD code (R85, U2). Safe. -/
  | reservedCommand (code : BitVec 2)
  /-- Raised by START when PHASE is neither IDLE nor DONE (R180, U1). Safe. -/
  | startNotAccepted
  /-- Raised when the host writes a byte of the message of the running transaction (R52, R240, U3). Safe. -/
  | messageHeld
  /-- Raised by Platform.stepAt for an instance number the platform does not have (R215). Safe. -/
  | noInstance
  deriving DecidableEq, Repr

/-- The machine right after reset (R40, R230): PHASE = IDLE and FCODE = 0. The spec leaves every other register unspecified; the model
names zero for each (log 5, DESIGN CHOICE, unsafe). Nothing is listed in MSG (log 3), no move is scripted (log 2). -/
def State.reset : State where
  hash := Vector.replicate 8 0
  work := ⟨0, 0, 0, 0, 0, 0, 0, 0⟩
  w := Vector.replicate 64 0
  len := 0
  bitlen := 0
  nblk := 0
  blk := 0
  t := 0
  phase := Phase.idle
  fcode := 0
  digest := Vector.replicate 32 0
  msg := []
  turns := []
  replies := []
  digestSet := false
  draws := 0

end Sys2Proof.Machine
end

