-- ==== Sys2Proof/Machine/WordFunctions.lean ====
section
/-! DEFINITION. The nine function units (40_word_functions.md) and the byte order of words (30_encoding.md R72, R74). Pure functions:
no state, no flag, no fault. -/

namespace Sys2Proof.Machine

/-- R100: ADD32 of any number of operands, modulo 2^32; the carry is dropped. -/
def add32 (xs : List Word) : Word := xs.foldl (· + ·) 0

/-- R101: 32-bit right rotation. -/
def rotr (x : Word) (n : Nat) : Word := (x >>> n) ||| (x <<< (32 - n))

/-- R102: 32-bit logical right shift. -/
def shr (x : Word) (n : Nat) : Word := x >>> n

/-- R103: choose. -/
def ch (x y z : Word) : Word := (x &&& y) ^^^ (~~~x &&& z)

/-- R104: majority. -/
def maj (x y z : Word) : Word := (x &&& y) ^^^ (x &&& z) ^^^ (y &&& z)

/-- R105. -/
def bsig0 (x : Word) : Word := rotr x 2 ^^^ rotr x 13 ^^^ rotr x 22

/-- R106. -/
def bsig1 (x : Word) : Word := rotr x 6 ^^^ rotr x 11 ^^^ rotr x 25

/-- R107: the third term is a shift. -/
def ssig0 (x : Word) : Word := rotr x 7 ^^^ rotr x 18 ^^^ shr x 3

/-- R108: the third term is a shift. -/
def ssig1 (x : Word) : Word := rotr x 17 ^^^ rotr x 19 ^^^ shr x 10

/-- R74: a word from four bytes in stream order, the first byte in bits 31:24. -/
def wordBe (b0 b1 b2 b3 : Byte) : Word := b0 ++ b1 ++ b2 ++ b3

/-- R10, R74: the four bytes of a word, most significant first. -/
def be32 (x : Word) : List Byte :=
  [x.extractLsb' 24 8, x.extractLsb' 16 8, x.extractLsb' 8 8, x.extractLsb' 0 8]

/-- R72: byte k of the eight-byte big-endian image of a 64-bit value, (v >> (8 * (7 - k))) & 0xFF. -/
def lenByte (v : BitVec 64) (k : Nat) : Byte := (v >>> (8 * (7 - k))).setWidth 8

/-- R10, R72: the eight bytes of a 64-bit value, most significant first. -/
def be64 (v : BitVec 64) : List Byte := (List.range 8).map (lenByte v)

end Sys2Proof.Machine
end

