-- ==== Sys2Proof/Machine/Ops.lean ====
section
/-! DEFINITION. The named operations over memory and registers: reading and writing MSG, one update for each field of State, the
fault action (60_exceptions.md R205) and, beside it, the only way out of a fault, the reset action (70_reset_and_hazards.md R230;
there is no return from a fault, R210). -/

namespace Sys2Proof.Machine

/-! ### The message memory -/

/-- What an unlisted index of MSG reads as (log 3, DESIGN CHOICE, unsafe: the spec gives no such contents). -/
def Memory.blank : Byte := 0x00

/-- The number of indices of MSG: 61 bits (R37, R50). -/
def Memory.size : Nat := 2 ^ 61

/-- One byte of the list, with no check of the index. -/
def Memory.read : Memory → Nat → Byte
  | [], _ => Memory.blank
  | (k, b) :: rest, a => if a = k then b else Memory.read rest a

/-- Write one byte, keeping the canonical form: the blank byte is not listed. Only the host writes MSG (R51). -/
def Memory.write : Memory → Nat → Byte → Memory
  | [], a, b => if b = Memory.blank then [] else [(a, b)]
  | (k, c) :: rest, a, b =>
    if a < k then
      if b = Memory.blank then (k, c) :: rest else (a, b) :: (k, c) :: rest
    else if a = k then
      if b = Memory.blank then rest else (a, b) :: rest
    else (k, c) :: Memory.write rest a b

/-- The canonical form from an index on: strictly rising, inside the address space, no blank byte listed. -/
def Memory.wfFrom : Nat → Memory → Bool
  | _, [] => true
  | lo, (k, b) :: rest =>
    decide (lo ≤ k) && decide (k < Memory.size) && decide (b ≠ Memory.blank) && Memory.wfFrom (k + 1) rest

/-- The canonical form of a memory: equal memories are equal lists. -/
def Memory.wf (m : Memory) : Bool := Memory.wfFrom 0 m

/-- The message of L bytes that MSG holds: MSG[0], ..., MSG[L-1] (R50). -/
def Memory.message (m : Memory) (len : Nat) : List Byte := (List.range len).map m.read

/-! ### One update for each field -/

/-- `PHASE <- p`, the control transfer of this hardware (R10). -/
def State.putPhase (s : State) (p : BitVec 4) : State := { s with phase := p }
/-- `FCODE <- c`. -/
def State.putFcode (s : State) (c : BitVec 2) : State := { s with fcode := c }
/-- `LEN <- l`. -/
def State.putLen (s : State) (l : BitVec 64) : State := { s with len := l }
/-- `BITLEN <- v`. -/
def State.putBitlen (s : State) (v : BitVec 64) : State := { s with bitlen := v }
/-- `NBLK <- n`. -/
def State.putNblk (s : State) (n : BitVec 56) : State := { s with nblk := n }
/-- `BLK <- i`. -/
def State.putBlk (s : State) (i : BitVec 56) : State := { s with blk := i }
/-- `T <- t`. -/
def State.putT (s : State) (t : BitVec 6) : State := { s with t := t }
/-- All eight `H[j] <- H'[j]`, simultaneously. -/
def State.putHash (s : State) (h : Vector Word 8) : State := { s with hash := h }
/-- All eight working registers, simultaneously. -/
def State.putWork (s : State) (r : Work) : State := { s with work := r }
/-- The message schedule. -/
def State.putW (s : State) (w : Vector Word 64) : State := { s with w := w }
/-- All 32 bytes of DIGEST in one write, which marks it as written since the last reset (R171; log 7). -/
def State.putDigest (s : State) (d : Vector Byte 32) : State := { s with digest := d, digestSet := true }
/-- The host's message memory. -/
def State.putMsg (s : State) (m : Memory) : State := { s with msg := m }
/-- The script of turns. -/
def State.putTurns (s : State) (ts : List Turn) : State := { s with turns := ts }
/-- One more reply to the host. -/
def State.putReply (s : State) (r : Reply) : State := { s with replies := r :: s.replies }
/-- One more free value taken. -/
def State.putDraw (s : State) : State := { s with draws := s.draws + 1 }

/-! ### The eight-word register files side by side -/

/-- Working registers from eight words: a pairs with index 0, ..., h with index 7 (R22, R77). -/
def Work.ofVector (v : Vector Word 8) : Work := ⟨v[0], v[1], v[2], v[3], v[4], v[5], v[6], v[7]⟩

/-- r[0..7] with r[0] = a, ..., r[7] = h (R22, R77). -/
def Work.toVector (r : Work) : Vector Word 8 := ⟨[r.a, r.b, r.c, r.d, r.e, r.f, r.g, r.h].toArray, rfl⟩

/-! ### Fault and reset -/

/-- The fault codes of R200. -/
def HwFault.code : HwFault → BitVec 2
  | .lenOverflow => 1
  | .blockAlign => 2

/-- `raise Fault(code)` (R205): FCODE and PHASE, and nothing else. -/
def raiseFault (f : HwFault) (s : State) : State := (s.putFcode f.code).putPhase Phase.fault

/-- Reset, in any phase (R230, R231): PHASE = IDLE, FCODE = 0, every other register of the core unspecified, each a free value of its
own (log 6). The free values count from 0 in each instance on the same constants, so the n-th ones of two instances are provably equal,
though the spec says nothing of how they relate (log 27, DESIGN CHOICE, unsafe). MSG is the host's and the constants are no registers, so neither changes. -/
def resetAction (s : State) : State :=
  { s with
    phase := Phase.idle
    fcode := 0
    len := Config.unspecLen s.draws
    bitlen := Config.unspecBitlen s.draws
    nblk := Config.unspecNblk s.draws
    blk := Config.unspecBlk s.draws
    t := Config.unspecT s.draws
    hash := Config.unspecHash s.draws
    work := Work.ofVector (Config.unspecWork s.draws)
    w := Config.unspecW s.draws
    digest := Config.unspecDigest s.draws
    digestSet := false
    draws := s.draws + 1 }

/-- The outcome of an operation that may meet a model fault. -/
def outcomeOf : Except Fault State → Host.Outcome State Fault Refusal
  | .ok s => .next s
  | .error f => .fault f

end Sys2Proof.Machine
end

