-- ==== Sys2Proof/Machine/Flags.lean ====
section
/-! DEFINITION. There is no flag register (10_state.md R32): no operation writes a condition code and every carry is dropped. The only
status bits are the fields of STATUS (R33), views of PHASE and FCODE. -/

namespace Sys2Proof.Machine

/-- BUSY: 0x1 <= PHASE <= 0x8 (R31, R33). -/
def busyPhase (p : BitVec 4) : Bool := decide (1 ≤ p.toNat ∧ p.toNat ≤ 8)

/-- DONE: PHASE = 0x9 (R33). -/
def donePhase (p : BitVec 4) : Bool := decide (p = Phase.done)

/-- START is accepted in IDLE and DONE only (R180). -/
def startPhase (p : BitVec 4) : Bool := decide (p = Phase.idle) || decide (p = Phase.done)

/-- The STATUS byte (R33): bit 7 DONE, bit 6 BUSY, bits 5:4 FCODE, bits 3:0 PHASE. -/
def State.status (s : State) : BitVec 8 :=
  BitVec.ofBool (donePhase s.phase) ++ BitVec.ofBool (busyPhase s.phase) ++ s.fcode ++ s.phase

end Sys2Proof.Machine
end

