-- ==== Sys2Proof/Machine/Operands.lean ====
section
/-! DEFINITION. The implicit operands of the operations (30_encoding.md R82): the read port on MSG (R50), the padded stream PadByte
(41_padder.md R124), a word of a block (42_block_splitter.md R131), the schedule registers (R23). -/

namespace Sys2Proof.Machine

/-- `MemRead(MSG, j, 1)` (R10, R50): valid at 0 <= j < LEN; elsewhere a fault of the model (R60, U10). No side effect (R54). -/
def msgRead (s : State) (j : Nat) : Except Fault Byte :=
  if j < s.len.toNat then .ok (s.msg.read j) else .error .msgIndexOutOfRange

/-- PLEN = 64 * NBLK, a number and no register (R26). -/
def State.plen (s : State) : Nat := 64 * s.nblk.toNat

/-- `PadByte(j)` (R124): MESSAGE, MARK, ZEROS, LENGTH, in that order; not defined at or above PLEN (U10). -/
def padByte (s : State) (j : Nat) : Except Fault Byte :=
  if s.plen ≤ j then .error .padByteOutOfRange
  else if j < s.len.toNat then msgRead s j
  else if j = s.len.toNat then .ok 0x80
  else if j < s.plen - 8 then .ok 0x00
  else .ok (lenByte s.bitlen (j - (s.plen - 8)))

/-- `BlockWord(i, k)` (R131): the first byte of the group is bits 31:24 of the word. -/
def blockWord (s : State) (i k : Nat) : Except Fault Word :=
  match padByte s (64 * i + 4 * k), padByte s (64 * i + 4 * k + 1), padByte s (64 * i + 4 * k + 2),
    padByte s (64 * i + 4 * k + 3) with
  | .ok b0, .ok b1, .ok b2, .ok b3 => .ok (wordBe b0 b1 b2 b3)
  | .error f, _, _, _ => .error f
  | _, .error f, _, _ => .error f
  | _, _, .error f, _ => .error f
  | _, _, _, .error f => .error f

/-- The first n words of block i, in increasing k. -/
def blockWords (s : State) (i : Nat) : Nat → Except Fault (List Word)
  | 0 => .ok []
  | n + 1 =>
    match blockWords s i n, blockWord s i n with
    | .ok ws, .ok x => .ok (ws ++ [x])
    | .error f, _ => .error f
    | .ok _, .error f => .error f

/-- W[t], selected by a 6-bit index with no scaling (R78). -/
def schedRead (w : Vector Word 64) (t : BitVec 6) : Word := w[t.toNat]'t.isLt

/-- `W[t] <- x`. -/
def schedWrite (w : Vector Word 64) (t : BitVec 6) (x : Word) : Vector Word 64 := w.set t.toNat x t.isLt

/-- `W[k] <- ws[k]` for the indices k of ws; the rest is not touched (R132). -/
def schedLoad (w : Vector Word 64) (ws : List Word) : Vector Word 64 :=
  Vector.ofFn fun k : Fin 64 => (ws[k.val]?).getD w[k]

end Sys2Proof.Machine
end

