-- ==== Sys2Proof/Machine/Padder.lean ====
section
/-! DEFINITION. The message padder (41_padder.md): the contract Pad, the geometry of the padding, and the operation PAD. -/

namespace Sys2Proof.Machine

/-- Z, the number of zero bytes (R122): (55 - L) mod 64, the remainder in 0..63. -/
def zeroCount (len : Nat) : Nat := ((55 - (len : Int)) % 64).toNat

/-- PLEN = L + 1 + Z + 8 (R122). -/
def paddedLength (len : Nat) : Nat := len + 1 + zeroCount len + 8

/-- NBLK = (L + 8) div 64 + 1 (R122). -/
def blockCount (len : Nat) : Nat := (len + 8) / 64 + 1

/-- The length field of Pad as a number (R125): 8 * L, exact. Above MAX_LEN, where it does not fit 64 bits, a free value (log 26). -/
def padBits (len : Nat) : BitVec 64 :=
  if 8 * len < 2 ^ 64 then BitVec.ofNat 64 (8 * len) else Config.padBitsBeyond len

/-- `Pad(msg)` (R125): message, marker 0x80, zeros, and the bit length as eight bytes. The spec defines it up to MAX_LEN only (R125, U8);
for a longer message the model keeps the layout, with a free length field (log 26, DESIGN CHOICE, unsafe). -/
def padMessage (msg : List Byte) : List Byte :=
  msg ++ [0x80] ++ List.replicate (zeroCount msg.length) 0x00 ++ be64 (padBits msg.length)

/-- BITLEN of PAD (R120, R121): 8 * LEN, exact. Where it does not fit 64 bits, which START rules out (R25), a free value (log 11). -/
def bitlenOf (len : BitVec 64) : BitVec 64 :=
  if 8 * len.toNat < 2 ^ 64 then BitVec.ofNat 64 (8 * len.toNat) else Config.bitlenBeyond len

/-- NBLK of PAD (R120, R122), exact. Where it does not fit 56 bits, which START rules out (R26), a free value (log 11). -/
def nblkOf (len : BitVec 64) : BitVec 56 :=
  if blockCount len.toNat < 2 ^ 56 then BitVec.ofNat 56 (blockCount len.toNat) else Config.nblkBeyond len

/-- PAD (R120). -/
def execPad (s : State) : Host.Outcome State Fault Refusal :=
  .next (((s.putBitlen (bitlenOf s.len)).putNblk (nblkOf s.len)).putPhase Phase.inith)

end Sys2Proof.Machine
end

