-- ==== Sys2Proof/Machine/Splitter.lean ====
section
/-! DEFINITION. The block splitter (42_block_splitter.md): the contract Split and the operation LOADBLK. -/

namespace Sys2Proof.Machine

/-- Word k of block i of a byte sequence (R130), big-endian. Only indices inside the sequence are asked for. -/
def splitWord (pm : List Byte) (i k : Nat) : Word :=
  wordBe (pm.getD (64 * i + 4 * k) 0) (pm.getD (64 * i + 4 * k + 1) 0) (pm.getD (64 * i + 4 * k + 2) 0)
    (pm.getD (64 * i + 4 * k + 3) 0)

/-- Block i of a byte sequence (R73, R130): sixteen words. -/
def splitBlock (pm : List Byte) (i : Nat) : Block := (List.range 16).map (splitWord pm i)

/-- `Split(pm)` (R130): the blocks in order; a length that is no multiple of 64 raises BLOCK_ALIGN (R202). -/
def splitBlocks (pm : List Byte) : Except HwFault (List Block) :=
  if pm.length % 64 = 0 then .ok ((List.range (pm.length / 64)).map (splitBlock pm)) else .error .blockAlign

/-- LOADBLK (R132): W[0..15] from block BLK of the padded stream, T <- 16. -/
def execLoadblk (s : State) : Host.Outcome State Fault Refusal :=
  outcomeOf ((blockWords s s.blk.toNat 16).map fun ws => ((s.putW (schedLoad s.w ws)).putT 16).putPhase Phase.expand)

end Sys2Proof.Machine
end

