-- ==== Sys2Proof/Machine/Expander.lean ====
section
/-! DEFINITION. The message schedule expander (43_schedule_expander.md): the contract Schedule and the operation EXPAND. -/

namespace Sys2Proof.Machine

/-- The next word of a schedule that is known up to, and not including, its own length t (R140). -/
def nextWord (ws : List Word) : Word :=
  let t := ws.length
  add32 [ssig1 (ws.getD (t - 2) 0), ws.getD (t - 7) 0, ssig0 (ws.getD (t - 15) 0), ws.getD (t - 16) 0]

/-- A block's words followed by n computed words (R140). -/
def extendSchedule (block : Block) : Nat → List Word
  | 0 => block
  | n + 1 => extendSchedule block n ++ [nextWord (extendSchedule block n)]

/-- `Schedule(M)` (R140): 64 words, the first 16 the block's. -/
def schedule (block : Block) : List Word := extendSchedule block 48

/-- The word EXPAND computes at index t (R141), with 16 <= t, so that no index below wraps. -/
def expandWord (w : Vector Word 64) (t : BitVec 6) : Word :=
  add32 [ssig1 (schedRead w (t - 2)), schedRead w (t - 7), ssig0 (schedRead w (t - 15)), schedRead w (t - 16)]

/-- `if T == 63 then PHASE <- next else T <- T + 1`, the end of EXPAND and of ROUND (R141, R151). -/
def countOr (next : BitVec 4) (s : State) : State :=
  if s.t = 63 then s.putPhase next else s.putT (s.t + 1)

/-- EXPAND (R141). With T below 16 the index T - 16 does not exist (U10; log 10). -/
def execExpand (s : State) : Host.Outcome State Fault Refusal :=
  if 16 ≤ s.t.toNat then .next (countOr Phase.initwr (s.putW (schedWrite s.w s.t (expandWord s.w s.t))))
  else .fault .scheduleIndexOutOfRange

end Sys2Proof.Machine
end

