-- ==== Sys2Proof/Machine/Compressor.lean ====
section
/-! DEFINITION. The compression round engine (44_compressor.md): the contracts Round and Compress, and the operations INITWR, ROUND
and FEEDFWD. -/

namespace Sys2Proof.Machine

/-- T1 of a round, from the old registers (R152). -/
def roundT1 (r : Work) (k x : Word) : Word := add32 [r.h, bsig1 r.e, ch r.e r.f r.g, k, x]

/-- T2 of a round, from the old registers (R152). -/
def roundT2 (r : Work) : Word := add32 [bsig0 r.a, maj r.a r.b r.c]

/-- `Round(r, k, w)` (R152): all eight registers at once (R156, R244). -/
def roundFn (r : Work) (k x : Word) : Work where
  a := add32 [roundT1 r k x, roundT2 r]
  b := r.a
  c := r.b
  d := r.c
  e := add32 [r.d, roundT1 r k x]
  f := r.e
  g := r.f
  h := r.g

/-- The feed-forward, eight independent additions onto the pre-block hash state (R153, R154, R243). -/
def feedForward (hin : Vector Word 8) (r : Work) : Vector Word 8 :=
  Vector.ofFn fun j : Fin 8 => add32 [hin[j], r.toVector[j]]

/-- The first n rounds of a block, t increasing, from schedule words ws (R154). -/
def runRounds (ws : List Word) (r : Work) : Nat → Work
  | 0 => r
  | n + 1 => roundFn (runRounds ws r n) (kTable.toList.getD n 0) (ws.getD n 0)

/-- `Compress(Hin, M)` (R154). -/
def compress (hin : Vector Word 8) (block : Block) : Vector Word 8 :=
  feedForward hin (runRounds (schedule block) (Work.ofVector hin) 64)

/-- INITWR (R150). -/
def execInitwr (s : State) : Host.Outcome State Fault Refusal :=
  .next (((s.putWork (Work.ofVector s.hash)).putT 0).putPhase Phase.round)

/-- ROUND (R151): round number T, with K[T] and W[T]. -/
def execRound (s : State) : Host.Outcome State Fault Refusal :=
  .next (countOr Phase.feed (s.putWork (roundFn s.work (roundConstant s.t) (schedRead s.w s.t))))

/-- BLK + 1, exact; where it does not fit 56 bits, which BLK < NBLK rules out (R27), a free value (log 11). -/
def nextBlk (blk nblk : BitVec 56) : BitVec 56 :=
  if blk.toNat + 1 < 2 ^ 56 then blk + 1 else Config.blkBeyond nblk

/-- FEEDFWD (R153): the feed-forward, then the next block or the end. -/
def execFeedfwd (s : State) : Host.Outcome State Fault Refusal :=
  let s' := s.putHash (feedForward s.hash s.work)
  if s.blk.toNat + 1 = s.nblk.toNat then .next (s'.putPhase Phase.ser)
  else .next ((s'.putBlk (nextBlk s.blk s.nblk)).putPhase Phase.load)

end Sys2Proof.Machine
end

