-- ==== Sys2Proof/Machine/Serializer.lean ====
section
/-! DEFINITION. The digest serializer (45_digest_serializer.md): the contract Serialize and the operation SERIALIZE. -/

namespace Sys2Proof.Machine

/-- `Serialize(Hs)` (R170): the eight words, big-endian, in register order. -/
def serialize (hs : Vector Word 8) : List Byte := hs.toList.flatMap be32

/-- `DIGEST[4j + m] = (H[j] >> (8 * (3 - m))) & 0xFF` (R75, R171). -/
def digestBytes (hs : Vector Word 8) : Vector Byte 32 :=
  Vector.ofFn fun n : Fin 32 => ((hs[n.val / 4]'(by omega)) >>> (8 * (3 - n.val % 4))).setWidth 8

/-- SERIALIZE (R171): all 32 bytes and PHASE in one operation; DIGEST is storage of its own (R172). -/
def execSerialize (s : State) : Host.Outcome State Fault Refusal :=
  .next ((s.putDigest (digestBytes s.hash)).putPhase Phase.done)

end Sys2Proof.Machine
end

