-- ==== Sys2Proof/Machine/HostCommands.lean ====
section
/-! DEFINITION. The host commands, the port reads, INITH, the phases with no operation, and the whole-digest contract
(46_host_and_sequencing.md). -/

namespace Sys2Proof.Machine

/-- `Digest(msg)` (R187): the composition of the contracts; no value above MAX_LEN (R201). -/
def digestOf (msg : List Byte) : Except HwFault (List Byte) :=
  if msg.length ≤ Config.maxLen then
    match splitBlocks (padMessage msg) with
    | .ok blocks => .ok (serialize (blocks.foldl compress iv))
    | .error f => .error f
  else .error .lenOverflow

/-- START L (R180): accepted in IDLE and DONE; a length above MAX_LEN is the LEN_OVERFLOW fault, with LEN not written (R201, R205).
In any other phase it is not accepted, and the model refuses it (U1; log 9). -/
def execStart (len : Nat) (s : State) : Host.Outcome State Fault Refusal :=
  if startPhase s.phase then
    if Config.maxLen < len then .next (raiseFault .lenOverflow s)
    else .next ((s.putLen (BitVec.ofNat 64 len)).putPhase Phase.pad)
  else .refused .startNotAccepted

/-- NOCMD (R181): nothing, in every phase. -/
def execNocmd (s : State) : Host.Outcome State Fault Refusal := .next s

/-- INITH (R182). -/
def execInith (s : State) : Host.Outcome State Fault Refusal :=
  .next (((s.putHash iv).putBlk 0).putPhase Phase.load)

/-- WAIT.IDLE (R185): the state does not change. -/
def execWaitIdle (s : State) : Host.Outcome State Fault Refusal := .next s

/-- WAIT.DONE (R185): the state does not change. -/
def execWaitDone (s : State) : Host.Outcome State Fault Refusal := .next s

/-- WAIT.FAULT (R185, R210): the state does not change. -/
def execWaitFault (s : State) : Host.Outcome State Fault Refusal := .next s

/-! Port moves of the host that have no code (R81, R194). -/

/-- READ STATUS (R183): the byte, and no change of the core. -/
def readStatus (s : State) : State := s.putReply (.status s.status)

/-- READ DIGEST (R184): the register. Where no SERIALIZE has run since the last reset its content is unspecified, and the host gets a
free value (U5, any value; log 7). Outside DONE after a digest the register still holds that digest (R36; log 8). -/
def readDigest (s : State) : State :=
  if s.digestSet then s.putReply (.digest s.digest)
  else (s.putReply (.digest (Config.unspecDigest s.draws))).putDraw

/-- A host write to STATUS has no effect (R33). -/
def writeStatus (_value : BitVec 8) (s : State) : State := s

/-- The host changes one byte of its memory; during a transaction it must leave the message's bytes alone (R52, R240), and the model
refuses such a move (U3; log 4). -/
def writeMsg (index : BitVec 61) (value : Byte) (s : State) : Host.Outcome State Fault Refusal :=
  if busyPhase s.phase && decide (index.toNat < s.len.toNat) then .refused .messageHeld
  else .next (s.putMsg (s.msg.write index.toNat value))

end Sys2Proof.Machine
end

