-- ==== Sys2Proof/Machine/Dispatch.lean ====
section
/-! DEFINITION. One arm for each instruction: the engine operations of 30_encoding.md R80 and the host commands of R81. -/

namespace Sys2Proof.Machine

def exec (i : Instr) (s : State) : Host.Outcome State Fault Refusal :=
  match i with
  | .waitIdle => Sys2Proof.Machine.execWaitIdle s
  | .pad => Sys2Proof.Machine.execPad s
  | .inith => Sys2Proof.Machine.execInith s
  | .loadblk => Sys2Proof.Machine.execLoadblk s
  | .expand => Sys2Proof.Machine.execExpand s
  | .initwr => Sys2Proof.Machine.execInitwr s
  | .round => Sys2Proof.Machine.execRound s
  | .feedfwd => Sys2Proof.Machine.execFeedfwd s
  | .serialize => Sys2Proof.Machine.execSerialize s
  | .waitDone => Sys2Proof.Machine.execWaitDone s
  | .waitFault => Sys2Proof.Machine.execWaitFault s
  | .nocmd => Sys2Proof.Machine.execNocmd s
  | .start len => Sys2Proof.Machine.execStart len s

end Sys2Proof.Machine
end

