-- ==== Sys2Proof/Machine/Sequencer.lean ====
section
/-! DEFINITION. The sequencer (46_host_and_sequencing.md R185, R186, R189): the engine's step, the host's moves, the traces of the
pseudo-operations (30_encoding.md R86), and the number of operations a transaction has left (R188, R195, R251). -/

namespace Sys2Proof.Machine

/-- The refusal of a reserved code (R85). -/
def refusalOf : DecodeError → Refusal
  | .reservedOp code => .reservedPhase code
  | .reservedCmd code => .reservedCommand code

/-- Run the instruction a code names, or refuse the code. -/
def runCode (c : Code) (s : State) : Host.Outcome State Fault Refusal :=
  match decode c with
  | .ok i => exec i s
  | .error e => .refused (refusalOf e)

/-- The engine's step: the operation PHASE names (R31, R84, R189). -/
def engineStep (s : State) : Host.Outcome State Fault Refusal := runCode (.op s.phase) s

/-- The refusal of a state that holds a reserved PHASE or FCODE code (R85, U4), PHASE first (log 25). -/
def State.reservedCode (s : State) : Option Refusal :=
  if 0xA ≤ s.phase.toNat ∧ s.phase.toNat ≤ 0xE then some (.reservedPhase s.phase)
  else if s.fcode = 3 then some (.reservedFcode s.fcode)
  else none

/-- Why the next move is refused before it is looked at: such a state is stuck until reset (R85, U4). The host's moves are refused in it
as well as the engine's: the phases in which R181 and R183 call NOCMD and the reads legal are those of R31 that are not reserved (log 1). -/
def State.stuck (s : State) : Option Refusal :=
  match s.turns with
  | .reset _ :: _ => none
  | _ => s.reservedCode

/-- One scripted move, on the state whose script it has been taken from (R189, R190); a state that is stuck does not come here. -/
def turnStep (m : Turn) (s : State) : Host.Outcome State Fault Refusal :=
  match m with
  | .engine => engineStep s
  | .command code len => runCode (.cmd code len) s
  | .readStatus => .next (readStatus s)
  | .readDigest => .next (readDigest s)
  | .writeStatus value => .next (writeStatus value s)
  | .reset _ => .next (resetAction s)
  | .writeMsg index value => writeMsg index value s

/-- The next move: the first scripted one, or the engine's when the script is empty (log 2). -/
def nextMove (s : State) : Host.Outcome State Fault Refusal :=
  match s.turns with
  | [] => engineStep s
  | m :: rest => turnStep m (s.putTurns rest)

/-- One step of the machine: the next move, or the refusal of a state that is stuck until reset. -/
def advance (s : State) : Host.Outcome State Fault Refusal :=
  match s.stuck with
  | some r => .refused r
  | none => nextMove s

/-! ### Traces -/

/-- SCHEDULE: 1 + 48 operations (R86). -/
def scheduleOps : List Instr := .loadblk :: List.replicate 48 .expand

/-- COMPRESS: 1 + 64 + 1 operations (R86). -/
def compressOps : List Instr := .initwr :: (List.replicate 64 .round ++ [.feedfwd])

/-- BLOCK.i: 115 operations (R86). -/
def blockOps : List Instr := scheduleOps ++ compressOps

/-- The engine operations of DIGEST on n blocks: 3 + 115 * n (R86, R186). -/
def digestOps (n : Nat) : List Instr := [.pad, .inith] ++ (List.replicate n blockOps).flatten ++ [.serialize]

/-- The engine operations left before the transaction is DONE (R188, R195, R251); 0 where the engine has no step. -/
def opsLeft (s : State) : Nat :=
  let later := 115 * (s.nblk.toNat - s.blk.toNat - 1) + 1
  match s.phase.toNat with
  | 0x1 => 3 + 115 * blockCount s.len.toNat
  | 0x2 => 2 + 115 * s.nblk.toNat
  | 0x3 => 115 + later
  | 0x4 => (64 - s.t.toNat) + 66 + later
  | 0x5 => 66 + later
  | 0x6 => (64 - s.t.toNat) + 1 + later
  | 0x7 => 1 + later
  | 0x8 => 1
  | _ => 0

/-! ### Placing a code where the next step takes it -/

/-- Put the program-counter triple (PHASE, BLK, T) at an operation code (R31, D16): PHASE is the code; T and BLK, and NBLK where it
is 0, take values for which the operation is defined (R26, R27, R28); the engine has the next turn (log 13). -/
def placeOp (code : BitVec 4) (s : State) : State :=
  { s with
    phase := code
    t := if code = Phase.expand then 16 else if code = Phase.round then 0 else s.t
    blk := if 3 ≤ code.toNat ∧ code.toNat ≤ 7 then 0 else s.blk
    nblk := if 3 ≤ code.toNat ∧ code.toNat ≤ 7 ∧ s.nblk = 0 then 1 else s.nblk
    turns := .engine :: s.turns }

/-- Put a code where the next step takes it: an operation code in PHASE, a command at the CMD port. -/
def placeCode (c : Code) (s : State) : State :=
  match c with
  | .op code => placeOp code s
  | .cmd code len => s.putTurns (.command code len :: s.turns)

/-- The same for a table word; a word that is no code places nothing. -/
def placeWord (nbits w : Nat) (s : State) : State :=
  match codeOfTableWord nbits w with
  | some c => placeCode c s
  | none => s

end Sys2Proof.Machine
end

