-- ==== Sys2Proof/Machine/Step.lean ====
section
/-! DEFINITION. One step of the machine, and the state in which the next step runs a given code. -/

namespace Sys2Proof.Machine

/-- One step: the next scripted move, or the engine (R189). -/
def step (s : State) : Host.Outcome State Fault Refusal := advance s

/-- The state with a table word where the next step takes it. -/
def State.withFetchWord (s : State) (nbits w : Nat) : State := placeWord nbits w s

end Sys2Proof.Machine
end

