-- ==== Sys2Proof/Machine/Platform.lean ====
section
/-! DEFINITION. A platform of independent instances (60_exceptions.md R215, R216; 20_memory.md R64): each has its own complete state
and its own ports; the constant tables are shared and read-only. Steps of different instances interleave in any order (log 15). -/

namespace Sys2Proof.Machine

/-- NINST instances, the length of the list. -/
abbrev Platform := List State

/-- Every instance starts in the reset state independently (R215). -/
def Platform.reset (n : Nat) : Platform := List.replicate n State.reset

/-- Instance k takes one step; an instance number the platform does not have is refused. -/
def Platform.stepAt (k : Nat) (p : Platform) : Host.Outcome Platform Fault Refusal :=
  match p[k]? with
  | none => .refused .noInstance
  | some s =>
    match step s with
    | .next t => .next (p.set k t)
    | .fault f => .fault f
    | .refused r => .refused r

/-- The instances move in the order of a list of instance numbers. -/
def Platform.run : List Nat → Platform → Host.Outcome Platform Fault Refusal
  | [], p => .next p
  | k :: ks, p =>
    match Platform.stepAt k p with
    | .next q => Platform.run ks q
    | .fault f => .fault f
    | .refused r => .refused r

end Sys2Proof.Machine
end

