-- ==== Sys2Proof/Safety.lean ====
section
/-! DEFINITION. What a legal state and a safe step are, in the terms the statements use. -/

namespace Sys2Proof.Machine

/-- The facts the spec states about every state reached from reset (46_host_and_sequencing.md R186, 10_state.md R24 to R28, R33, R34). -/
structure State.Inv (s : State) : Prop where
  /-- PHASE never holds a reserved code (R31, R85). -/
  phase_legal : s.phase.toNat ≤ 9 ∨ s.phase = Phase.fault
  /-- FCODE is none or LEN_OVERFLOW: BLOCK_ALIGN is never raised by a step and 3 is reserved (R34, R202). -/
  fcode_legal : s.fcode = 0 ∨ s.fcode = HwFault.lenOverflow.code
  /-- FCODE is not 0 exactly in phase FAULT (R33, R34). -/
  fault_code : s.phase = Phase.fault ↔ s.fcode ≠ 0
  /-- LEN <= MAX_LEN during a transaction (R24). -/
  len_bound : busyPhase s.phase = true → s.len.toNat ≤ Config.maxLen
  /-- After PAD, BITLEN and NBLK are those of LEN (R25, R26). -/
  geometry : 2 ≤ s.phase.toNat ∧ s.phase.toNat ≤ 8 →
    s.bitlen.toNat = 8 * s.len.toNat ∧ s.nblk.toNat = blockCount s.len.toNat
  /-- BLK < NBLK in phases LOAD to FEED (R27, R186). -/
  blk_bound : 3 ≤ s.phase.toNat ∧ s.phase.toNat ≤ 7 → s.blk.toNat < s.nblk.toNat
  /-- 16 <= T in phase EXPAND (R28, R186). -/
  t_bound : s.phase = Phase.expand → 16 ≤ s.t.toNat
  /-- DIGEST has been written when DONE is visible (R62, R63). -/
  digest_ready : s.phase = Phase.done → s.digestSet = true
  /-- The message memory is in its canonical form. -/
  msg_wf : s.msg.wf = true

/-- PHASE and FCODE hold no reserved code (R31, R34, R85): the state is not stuck. -/
structure State.CodesLegal (s : State) : Prop where
  phase_legal : s.phase.toNat ≤ 9 ∨ s.phase = Phase.fault
  fcode_legal : s.fcode ≠ 3

/-- BITLEN and NBLK are those of a legal LEN: what PAD leaves (R24, R25, R26). -/
structure State.Geometry (s : State) : Prop where
  len_bound : s.len.toNat ≤ Config.maxLen
  bitlen_eq : s.bitlen.toNat = 8 * s.len.toNat
  nblk_eq : s.nblk.toNat = blockCount s.len.toNat

/-- The message of the transaction, MSG[0..LEN-1] (R50). -/
def State.message (s : State) : List Byte := s.msg.message s.len.toNat

/-- Refusals that only a host breaking its duties meets (R190, U1, U2, U3). -/
def hostRefusal : Refusal → Bool
  | .reservedCommand _ | .startNotAccepted | .messageHeld => true
  | _ => false

/-- A safe step: the machine goes on, or the host has broken one of its duties. -/
def SafeOutcome : Host.Outcome State Fault Refusal → Prop
  | .next _ => True
  | .fault _ => False
  | .refused r => hostRefusal r = true

/-- A host move that no rule lets change the core: NOCMD, the two reads, a write to STATUS (R181, R183, R184, R33). -/
def quietTurn : Turn → Bool
  | .command code _ => decide (code = 0)
  | .readStatus | .readDigest | .writeStatus _ => true
  | .engine | .reset _ | .writeMsg _ _ => false

/-- A host move that leaves the running transaction alone: a quiet one, or a write to MSG at or above LEN (R52 keeps the host from the
bytes below). -/
def dutifulTurn (len : BitVec 64) : Turn → Bool
  | .writeMsg index _ => decide (len.toNat ≤ index.toNat)
  | m => quietTurn m

/-- The message memory after the host writes of a script, in order. -/
def hostWrites : List Turn → Memory → Memory
  | [], m => m
  | .writeMsg index value :: ts, m => hostWrites ts (m.write index.toNat value)
  | _ :: ts, m => hostWrites ts m

/-- The core and its message memory, with the model's script, replies and counter of free values set aside. -/
def State.withoutHost (s : State) : State := { s with turns := [], replies := [], draws := 0 }

end Sys2Proof.Machine
end

