-- ==== Sys2Proof/Certificates/Slice0/Obligations.lean ====
section
/-! DEFINITION. The statements for the provers, each from the numbered rules of spec/. None rests on a value the model chose, but where
its docstring says so. -/

open Sys2Proof Sys2Proof.Machine

/-! ### Encodings (30_encoding.md) -/

/-- R80, R81, R84: decoding undoes encoding on every well-formed instruction, and every code that decodes is the encoding of a
well-formed instruction, but for the length port beside NOCMD, which is not read. -/
def Obligations.DecodeAndEncodeAreInverse : Prop :=
  (∀ i : Instr, i.wf = true → decode (encode i) = .ok i) ∧
  (∀ (c : Code) (i : Instr), decode c = .ok i →
    i.wf = true ∧ (encode i = c ∨ (i = .nocmd ∧ ∃ l, c = .cmd 0 l)))

/-- R84, R85, U4: the reserved codes, and only they, have no instruction; a state whose PHASE holds one, or whose FCODE is 3, is refused
whatever move is next, until reset; a command that is one is refused. That the reads and NOCMD are refused there too, and that PHASE is
looked at before FCODE, is the model's reading (logs 1, 25). -/
def Obligations.ReservedCodesAreRefused : Prop :=
  (∀ c : BitVec 4, (∀ i, decode (.op c) ≠ .ok i) ↔ 0xA ≤ c.toNat ∧ c.toNat ≤ 0xE) ∧
  (∀ (c : BitVec 2) (l : BitVec 64), (∀ i, decode (.cmd c l) ≠ .ok i) ↔ 2 ≤ c.toNat) ∧
  (∀ s : State, (∀ c rest, s.turns ≠ .reset c :: rest) → 0xA ≤ s.phase.toNat → s.phase.toNat ≤ 0xE →
    step s = .refused (.reservedPhase s.phase)) ∧
  (∀ s : State, (∀ c rest, s.turns ≠ .reset c :: rest) → (s.phase.toNat ≤ 9 ∨ s.phase = 0xF) → s.fcode = 3 →
    step s = .refused (.reservedFcode 3)) ∧
  (∀ (s : State) (c : BitVec 2) (l : BitVec 64) (rest : List Turn), s.CodesLegal → s.turns = .command c l :: rest → 2 ≤ c.toNat →
    step s = .refused (.reservedCommand c))

/-- R80, R81: the words of the opcode table. That a CMD table word, which has no length bits, reads as START with L = 0, and that a word of
2 bits is a CMD code and one of 4 bits an OP code, is the model's choice (log 13). -/
def Obligations.TableWordsDecodeToTheirRows : Prop :=
  decodeTableWord 4 0b0001 = some .pad ∧ decodeTableWord 4 0b0011 = some .loadblk ∧
  decodeTableWord 4 0b0100 = some .expand ∧ decodeTableWord 4 0b0110 = some .round ∧
  decodeTableWord 4 0b0111 = some .feedfwd ∧ decodeTableWord 4 0b1000 = some .serialize ∧
  decodeTableWord 4 0b1111 = some .waitFault ∧ decodeTableWord 4 0b1010 = none ∧
  decodeTableWord 2 0b00 = some .nocmd ∧ decodeTableWord 2 0b01 = some (.start 0) ∧ decodeTableWord 2 0b10 = none

/-- R31, R84, R189: with no move scripted, or with the engine's turn scripted, a step runs the operation PHASE names; a command turn runs
the command its code names. A scripted move is consumed first. A state with a reserved PHASE or FCODE code is refused instead
(Obligations.ReservedCodesAreRefused). -/
def Obligations.StepRunsTheDecodedInstruction : Prop :=
  (∀ (s : State) (i : Instr), s.fcode ≠ 3 → s.turns = [] → decode (.op s.phase) = .ok i → step s = exec i s) ∧
  (∀ (s : State) (i : Instr) (rest : List Turn), s.fcode ≠ 3 → s.turns = .engine :: rest → decode (.op s.phase) = .ok i →
    step s = exec i { s with turns := rest }) ∧
  (∀ (s : State) (i : Instr) (c : BitVec 2) (l : BitVec 64) (rest : List Turn), s.CodesLegal → s.turns = .command c l :: rest →
    decode (.cmd c l) = .ok i → step s = exec i { s with turns := rest })

/-- The model's own interface (log 13): a table word placed for the next step runs as the instruction the decoder reads from it, on a
state with the same message, LEN, H, a..h, W, DIGEST and script. -/
def Obligations.PlacedWordRunsAsTheNextStep : Prop :=
  ∀ (s : State) (nbits w : Nat) (i : Instr), s.CodesLegal → decodeTableWord nbits w = some i →
    ∃ s' : State, step (s.withFetchWord nbits w) = exec i s' ∧ s'.turns = s.turns ∧ s'.msg = s.msg ∧ s'.len = s.len ∧
      s'.hash = s.hash ∧ s'.work = s.work ∧ s'.w = s.w ∧ s'.digest = s.digest ∧ s'.fcode = s.fcode

/-! ### Word functions (40_word_functions.md) -/

/-- R100: the low 32 bits of the exact sum of any number of operands, in any order. -/
def Obligations.Add32IsTheExactSumModulo : Prop :=
  (∀ xs : List Word, (add32 xs).toNat = (xs.map BitVec.toNat).sum % 2 ^ 32) ∧
  (∀ xs ys : List Word, xs.Perm ys → add32 xs = add32 ys)

/-- R101: bit i of ROTR(x, n) is bit (i + n) mod 32 of x, and the number of 1 bits stays. -/
def Obligations.RotrMovesEveryBit : Prop :=
  ∀ (x : Word) (n : Nat), 1 ≤ n → n ≤ 31 →
    (rotr x n).toNat = (x.toNat / 2 ^ n ||| x.toNat * 2 ^ (32 - n)) % 2 ^ 32 ∧
    (∀ i, i < 32 → (rotr x n).getLsbD i = x.getLsbD ((i + n) % 32)) ∧
    ((List.range 32).countP fun i => (rotr x n).getLsbD i) = (List.range 32).countP fun i => x.getLsbD i

/-- R102: SHR(x, n) = x div 2^n, zero bits entering at the top. -/
def Obligations.ShrIsDivisionByAPowerOfTwo : Prop :=
  ∀ (x : Word) (n : Nat), (shr x n).toNat = x.toNat / 2 ^ n ∧ ∀ i, 32 - n ≤ i → (shr x n).getLsbD i = false

/-- R103: CH picks bit i of y where bit i of x is 1, else bit i of z; its two terms never overlap. -/
def Obligations.ChChoosesBitByBit : Prop :=
  ∀ x y z : Word, ch x y z = ((x &&& y) ^^^ (~~~x &&& z)) ∧ ch x y z = ((x &&& y) ||| (~~~x &&& z)) ∧
    ∀ i, i < 32 → (ch x y z).getLsbD i = if x.getLsbD i then y.getLsbD i else z.getLsbD i

/-- R104: the formula of MAJ; a bit of it is 1 when at least two of the three input bits are 1; MAJ is symmetric. -/
def Obligations.MajIsTheMajorityBitByBit : Prop :=
  ∀ x y z : Word, maj x y z = ((x &&& y) ^^^ (x &&& z) ^^^ (y &&& z)) ∧ maj x y z = maj y x z ∧ maj x y z = maj x z y ∧
    ∀ i, i < 32 → (maj x y z).getLsbD i =
      decide (2 ≤ (x.getLsbD i).toNat + (y.getLsbD i).toNat + (z.getLsbD i).toNat)

/-- R105, R106, R107, R108: the four sigma functions, bit by bit; the third term of the small ones is a shift, so it has no bit above. -/
def Obligations.SigmaFunctionsBitByBit : Prop :=
  ∀ (x : Word) (i : Nat), i < 32 →
    (bsig0 x).getLsbD i = ((x.getLsbD ((i + 2) % 32) ^^ x.getLsbD ((i + 13) % 32)) ^^ x.getLsbD ((i + 22) % 32)) ∧
    (bsig1 x).getLsbD i = ((x.getLsbD ((i + 6) % 32) ^^ x.getLsbD ((i + 11) % 32)) ^^ x.getLsbD ((i + 25) % 32)) ∧
    (ssig0 x).getLsbD i =
      ((x.getLsbD ((i + 7) % 32) ^^ x.getLsbD ((i + 18) % 32)) ^^ (decide (i + 3 < 32) && x.getLsbD (i + 3))) ∧
    (ssig1 x).getLsbD i =
      ((x.getLsbD ((i + 17) % 32) ^^ x.getLsbD ((i + 19) % 32)) ^^ (decide (i + 10 < 32) && x.getLsbD (i + 10)))

/-- R74: a word from four bytes, the first byte most significant, and back. -/
def Obligations.WordsAreBigEndian : Prop :=
  (∀ b0 b1 b2 b3 : Byte, (wordBe b0 b1 b2 b3).toNat =
      b0.toNat * 2 ^ 24 + b1.toNat * 2 ^ 16 + b2.toNat * 2 ^ 8 + b3.toNat ∧
    be32 (wordBe b0 b1 b2 b3) = [b0, b1, b2, b3]) ∧
  (∀ x : Word, ∃ b0 b1 b2 b3, be32 x = [b0, b1, b2, b3] ∧ wordBe b0 b1 b2 b3 = x)

/-- R29, R30: K[n] is the first 32 bits of the fractional part of the cube root of the n-th of the first 64 primes, IV[j] of the square
root of the j-th of the first 8 (the spec's own account of where the values come from). -/
def Obligations.ConstantsAreRootsOfPrimes : Prop :=
  let primes : List Nat := [2, 3, 5, 7, 11, 13, 17, 19, 23, 29, 31, 37, 41, 43, 47, 53] ++
    [59, 61, 67, 71, 73, 79, 83, 89, 97, 101, 103, 107, 109, 113, 127, 131] ++
    [137, 139, 149, 151, 157, 163, 167, 173, 179, 181, 191, 193, 197, 199, 211, 223] ++
    [227, 229, 233, 239, 241, 251, 257, 263, 269, 271, 277, 281, 283, 293, 307, 311]
  primes.length = 64 ∧
  (∀ n : Fin 64, ∃ r < 8, (r * 2 ^ 32 + kTable[n].toNat) ^ 3 ≤ primes.getD n.val 0 * 2 ^ 96 ∧
    primes.getD n.val 0 * 2 ^ 96 < (r * 2 ^ 32 + kTable[n].toNat + 1) ^ 3) ∧
  (∀ j : Fin 8, ∃ r < 8, (r * 2 ^ 32 + iv[j].toNat) ^ 2 ≤ primes.getD j.val 0 * 2 ^ 64 ∧
    primes.getD j.val 0 * 2 ^ 64 < (r * 2 ^ 32 + iv[j].toNat + 1) ^ 2)

/-! ### Contracts: padding, splitting, schedule, digest -/

/-- R122, R127: Z is the least number of zero bytes that leaves 8 bytes before a multiple of 64; PLEN = 64 * NBLK; the padding takes a
block beyond floor(L / 64) + 1 exactly when L mod 64 >= 56. -/
def Obligations.PaddingGeometry : Prop :=
  ∀ len : Nat,
    (len + 1 + zeroCount len) % 64 = 56 ∧ (∀ z, (len + 1 + z) % 64 = 56 → zeroCount len ≤ z) ∧
    paddedLength len = len + 1 + zeroCount len + 8 ∧ paddedLength len = 64 * blockCount len ∧
    blockCount len = (len + 8) / 64 + 1 ∧
    blockCount len = len / 64 + 1 + (if 56 ≤ len % 64 then 1 else 0)

/-- R123: the fields of the padded message. -/
def Obligations.PaddedMessageFields : Prop :=
  ∀ msg : List Byte, msg.length ≤ Config.maxLen →
    (padMessage msg).length % 64 = 0 ∧ 64 ≤ (padMessage msg).length ∧
    (padMessage msg).length = 64 * blockCount msg.length ∧
    (padMessage msg).take msg.length = msg ∧
    (padMessage msg).getD msg.length 0 = 0x80 ∧
    (∀ j, msg.length < j → j < (padMessage msg).length - 8 → (padMessage msg).getD j 1 = 0x00) ∧
    (∀ k, k < 8 → ((padMessage msg).getD ((padMessage msg).length - 8 + k) 0).toNat =
      8 * msg.length / 2 ^ (8 * (7 - k)) % 256) ∧
    msg.length + 9 ≤ (padMessage msg).length ∧ (padMessage msg).length ≤ msg.length + 72 ∧
    (blockCount msg.length = 1 ↔ msg.length ≤ 55)

/-- R124: below 64 * NBLK, PadByte(j) is byte j of the padded message, by its four cases; at and above it, it is not defined, and that the
model faults there is its choice (U10; log 10). -/
def Obligations.PadByteIsThePaddedMessage : Prop :=
  ∀ s : State, s.Geometry →
    (∀ j, j < 64 * s.nblk.toNat → ∃ b : Byte, padByte s j = .ok b ∧ b = (padMessage s.message).getD j 0 ∧
      (j < s.len.toNat → b = s.msg.read j) ∧ (j = s.len.toNat → b = 0x80) ∧
      (s.len.toNat < j → j < 64 * s.nblk.toNat - 8 → b = 0x00) ∧
      (64 * s.nblk.toNat - 8 ≤ j → b.toNat = s.bitlen.toNat / 2 ^ (8 * (64 * s.nblk.toNat - 1 - j)) % 256)) ∧
    (∀ j, 64 * s.nblk.toNat ≤ j → padByte s j = .error .padByteOutOfRange)

/-- R130: Split on a multiple of 64 gives the blocks in order, big-endian; on any other length it raises BLOCK_ALIGN. -/
def Obligations.SplitContract : Prop :=
  ∀ pm : List Byte,
    (pm.length % 64 = 0 → ∃ bs, splitBlocks pm = .ok bs ∧ bs.length = pm.length / 64 ∧
      ∀ i, i < bs.length → (bs.getD i []).length = 16 ∧
        ∀ k, k < 16 → (bs.getD i []).getD k 0 =
          wordBe (pm.getD (64 * i + 4 * k) 0) (pm.getD (64 * i + 4 * k + 1) 0) (pm.getD (64 * i + 4 * k + 2) 0)
            (pm.getD (64 * i + 4 * k + 3) 0)) ∧
    (pm.length % 64 ≠ 0 → splitBlocks pm = .error .blockAlign)

/-- R131: BlockWord(i, k) is word_be of four PadBytes, and word k of block i of Split(Pad(msg)); the length field fills words 14 and 15
of the last block. -/
def Obligations.BlockWordIsTheSplitOfThePad : Prop :=
  ∀ s : State, s.Geometry → ∃ bs, splitBlocks (padMessage s.message) = .ok bs ∧ bs.length = s.nblk.toNat ∧
    (∀ i k, i < s.nblk.toNat → k < 16 → blockWord s i k = .ok ((bs.getD i []).getD k 0) ∧
      ∃ b0 b1 b2 b3 : Byte, padByte s (64 * i + 4 * k) = .ok b0 ∧ padByte s (64 * i + 4 * k + 1) = .ok b1 ∧
        padByte s (64 * i + 4 * k + 2) = .ok b2 ∧ padByte s (64 * i + 4 * k + 3) = .ok b3 ∧
        blockWord s i k = .ok (wordBe b0 b1 b2 b3)) ∧
    blockWord s (s.nblk.toNat - 1) 14 = .ok (s.bitlen.extractLsb' 32 32) ∧
    blockWord s (s.nblk.toNat - 1) 15 = .ok (s.bitlen.extractLsb' 0 32)

/-- R140: the recurrence of the schedule. -/
def Obligations.ScheduleRecurrence : Prop :=
  ∀ block : Block, block.length = 16 →
    (schedule block).length = 64 ∧
    (∀ t, t < 16 → (schedule block).getD t 0 = block.getD t 0) ∧
    (∀ t, 16 ≤ t → t < 64 → (schedule block).getD t 0 =
      ssig1 ((schedule block).getD (t - 2) 0) + (schedule block).getD (t - 7) 0 +
        ssig0 ((schedule block).getD (t - 15) 0) + (schedule block).getD (t - 16) 0)

/-- R152, R156: the simultaneous round is the source's statements in the source's order, each reading what the ones before it left. -/
def Obligations.RoundIsTheSourcesStatementOrder : Prop :=
  ∀ (r : Work) (k x : Word),
    let t1 := r.h + bsig1 r.e + ch r.e r.f r.g + k + x
    let t2 := bsig0 r.a + maj r.a r.b r.c
    let r1 : Work := { r with h := r.g }
    let r2 : Work := { r1 with g := r1.f }
    let r3 : Work := { r2 with f := r2.e }
    let r4 : Work := { r3 with e := r3.d + t1 }
    let r5 : Work := { r4 with d := r4.c }
    let r6 : Work := { r5 with c := r5.b }
    let r7 : Work := { r6 with b := r6.a }
    roundFn r k x = { r7 with a := t1 + t2 }

/-- R154: Compress is the feed-forward of 64 rounds from Hin, round t with K[t] and w[t], onto Hin itself. -/
def Obligations.CompressIsTheFoldOfTheRounds : Prop :=
  ∀ (hin : Vector Word 8) (block : Block),
    ∃ r : Nat → Work, r 0 = ⟨hin[0], hin[1], hin[2], hin[3], hin[4], hin[5], hin[6], hin[7]⟩ ∧
      (∀ t : Fin 64, r (t.val + 1) = roundFn (r t.val) kTable[t] ((schedule block).getD t.val 0)) ∧
      (compress hin block).toList = [hin[0] + (r 64).a, hin[1] + (r 64).b, hin[2] + (r 64).c, hin[3] + (r 64).d,
        hin[4] + (r 64).e, hin[5] + (r 64).f, hin[6] + (r 64).g, hin[7] + (r 64).h]

/-- R170: Serialize gives 32 bytes, byte 4j + m from bits of word j, and different hash states give different digests. -/
def Obligations.SerializeContract : Prop :=
  (∀ hs : Vector Word 8, (serialize hs).length = 32 ∧
    ∀ (j : Fin 8) (m : Nat), m < 4 →
      ((serialize hs).getD (4 * j.val + m) 0).toNat = hs[j].toNat / 2 ^ (8 * (3 - m)) % 256) ∧
  (∀ hs hs' : Vector Word 8, serialize hs = serialize hs' → hs = hs')

/-- R187, R155, R9: on every message up to MAX_LEN, Digest is Serialize of the hash state chained over the blocks from IV, 32 bytes; above
MAX_LEN it has no value (R201). -/
def Obligations.DigestIsTotalUpToMaxLen : Prop :=
  (∀ msg : List Byte, msg.length ≤ Config.maxLen →
    ∃ (bs : List Block) (hs : Nat → Vector Word 8), splitBlocks (padMessage msg) = .ok bs ∧ hs 0 = iv ∧
      (∀ i, i < bs.length → hs (i + 1) = compress (hs i) (bs.getD i [])) ∧
      digestOf msg = .ok (serialize (hs bs.length)) ∧ (serialize (hs bs.length)).length = 32) ∧
  (∀ msg : List Byte, Config.maxLen < msg.length → digestOf msg = .error .lenOverflow)

/-! ### What each operation does, and what it leaves -/

/-- R185: in phases IDLE, DONE and FAULT the engine has no step and the state does not change. That its turn there (WAIT.IDLE, WAIT.DONE,
WAIT.FAULT) is a step of the model that completes and changes nothing is the model's reading (log 20, DEDUCED). -/
def Obligations.WaitOperationsChangeNothing : Prop :=
  (∀ s : State, exec .waitIdle s = .next s ∧ exec .waitDone s = .next s ∧ exec .waitFault s = .next s) ∧
  (∀ s : State, s.fcode ≠ 3 → s.turns = [] → (s.phase = 0x0 ∨ s.phase = 0x9 ∨ s.phase = 0xF) → step s = .next s)

/-- R181: NOCMD reads and writes no state, in every phase, whatever stands on the length port. (That it is refused
in a state with a reserved code is log 1: Obligations.ReservedCodesAreRefused.) -/
def Obligations.NocmdChangesNothing : Prop :=
  (∀ s : State, exec .nocmd s = .next s) ∧
  (∀ (s : State) (l : BitVec 64) (rest : List Turn), s.CodesLegal → s.turns = .command 0b00 l :: rest →
    step s = .next { s with turns := rest })

/-- R120, R121: PAD on every LEN up to MAX_LEN; every other field stays. -/
def Obligations.PadEncodesTheLength : Prop :=
  ∀ s : State, s.len.toNat ≤ Config.maxLen →
    ∃ t : State, exec .pad s = .next t ∧ t.bitlen.toNat = 8 * s.len.toNat ∧
      t.nblk.toNat = (s.len.toNat + 8) / 64 + 1 ∧ t.phase = 0x2 ∧
      t = { s with bitlen := t.bitlen, nblk := t.nblk, phase := t.phase }

/-- R182: INITH. -/
def Obligations.InithLoadsTheInitialHash : Prop :=
  ∀ s : State, exec .inith s = .next { s with hash := iv, blk := 0, phase := 0x3 } ∧
    iv.toList = [0x6a09e667, 0xbb67ae85, 0x3c6ef372, 0xa54ff53a, 0x510e527f, 0x9b05688c, 0x1f83d9ab, 0x5be0cd19]

/-- R132: LOADBLK puts the sixteen words of block BLK of Split(Pad(msg)) into W[0..15] and leaves W[16..63] and every other field. -/
def Obligations.LoadblkLoadsTheBlock : Prop :=
  ∀ s : State, s.Geometry → s.blk.toNat < s.nblk.toNat →
    ∃ (bs : List Block) (t : State), splitBlocks (padMessage s.message) = .ok bs ∧ exec .loadblk s = .next t ∧
      (∀ k : Fin 64, t.w[k] = if k.val < 16 then (bs.getD s.blk.toNat []).getD k.val 0 else s.w[k]) ∧
      t.t = 16 ∧ t.phase = 0x4 ∧ t = { s with w := t.w, t := t.t, phase := t.phase }

/-- R124, R132, U10: LOADBLK completes exactly when BLK < NBLK, whatever else the state holds; otherwise PadByte is asked for an offset it
is not defined at. -/
def Obligations.LoadblkCompletesExactlyBelowNblk : Prop :=
  ∀ s : State, (s.blk.toNat < s.nblk.toNat → ∃ t, exec .loadblk s = .next t) ∧
    (s.nblk.toNat ≤ s.blk.toNat → exec .loadblk s = .fault .padByteOutOfRange)

/-- R132, R54: LOADBLK reads only the message bytes of its own block: a change of any other byte of MSG changes nothing it writes. -/
def Obligations.LoadblkReadsOnlyItsOwnBytes : Prop :=
  ∀ (s t : State) (m : Memory),
    (∀ j, 64 * s.blk.toNat ≤ j → j < min (64 * s.blk.toNat + 64) s.len.toNat → m.read j = s.msg.read j) →
    exec .loadblk s = .next t → exec .loadblk { s with msg := m } = .next { t with msg := m }

/-- R141: EXPAND at 16 <= T; the other schedule words and every other field stay. That it is a fault of the model below 16, where W[T-16]
does not exist, is the model's choice (U10; log 10). -/
def Obligations.ExpandComputesOneWord : Prop :=
  (∀ s : State, 16 ≤ s.t.toNat →
    ∃ t : State, exec .expand s = .next t ∧
      (∀ k : Fin 64, k.val ≠ s.t.toNat → t.w[k] = s.w[k]) ∧
      (∀ (i i2 i7 i15 i16 : Fin 64), i.val = s.t.toNat → i2.val + 2 = i.val → i7.val + 7 = i.val → i15.val + 15 = i.val →
        i16.val + 16 = i.val → t.w[i] = ssig1 s.w[i2] + s.w[i7] + ssig0 s.w[i15] + s.w[i16]) ∧
      (s.t.toNat = 63 → t = { s with w := t.w, phase := 0x5 }) ∧
      (s.t.toNat < 63 → t.t.toNat = s.t.toNat + 1 ∧ t = { s with w := t.w, t := t.t })) ∧
  (∀ s : State, s.t.toNat < 16 → exec .expand s = .fault .scheduleIndexOutOfRange)

/-- R150: INITWR. -/
def Obligations.InitwrLoadsTheWorkingRegisters : Prop :=
  ∀ s : State, exec .initwr s = .next { s with
    work := ⟨s.hash[0], s.hash[1], s.hash[2], s.hash[3], s.hash[4], s.hash[5], s.hash[6], s.hash[7]⟩
    t := 0
    phase := 0x6 }

/-- R151: ROUND, with the right-hand sides all from before the round. -/
def Obligations.RoundUpdatesTheWorkingRegisters : Prop :=
  ∀ (s : State) (i : Fin 64), i.val = s.t.toNat →
    let t1 := s.work.h + bsig1 s.work.e + ch s.work.e s.work.f s.work.g + kTable[i] + s.w[i]
    let t2 := bsig0 s.work.a + maj s.work.a s.work.b s.work.c
    let r : Work := ⟨t1 + t2, s.work.a, s.work.b, s.work.c, s.work.d + t1, s.work.e, s.work.f, s.work.g⟩
    (s.t.toNat = 63 → exec .round s = .next { s with work := r, phase := 0x7 }) ∧
    (s.t.toNat < 63 → ∃ t : State, exec .round s = .next t ∧ t.t.toNat = s.t.toNat + 1 ∧
      t = { s with work := r, t := t.t })

/-- R153: FEEDFWD for BLK < NBLK: the eight additions onto the pre-block H, then the next block or the end. -/
def Obligations.FeedfwdAddsAndChooses : Prop :=
  ∀ s : State, s.blk.toNat < s.nblk.toNat →
    ∃ t : State, exec .feedfwd s = .next t ∧
      t.hash.toList = [s.hash[0] + s.work.a, s.hash[1] + s.work.b, s.hash[2] + s.work.c, s.hash[3] + s.work.d,
        s.hash[4] + s.work.e, s.hash[5] + s.work.f, s.hash[6] + s.work.g, s.hash[7] + s.work.h] ∧
      (s.blk.toNat + 1 = s.nblk.toNat → t = { s with hash := t.hash, phase := 0x8 }) ∧
      (s.blk.toNat + 1 ≠ s.nblk.toNat → t.blk.toNat = s.blk.toNat + 1 ∧
        t = { s with hash := t.hash, blk := t.blk, phase := 0x3 })

/-- R171: SERIALIZE writes all 32 bytes and PHASE; H and every other field of the core stay. That digestSet becomes true is the model's own
mark (log 7). -/
def Obligations.SerializeWritesTheDigest : Prop :=
  ∀ s : State, ∃ t : State, exec .serialize s = .next t ∧ t.digest.toList = serialize s.hash ∧
    (∀ (j : Fin 8) (m : Fin 4) (n : Fin 32), n.val = 4 * j.val + m.val →
      t.digest[n].toNat = s.hash[j].toNat / 2 ^ (8 * (3 - m.val)) % 256) ∧
    t.phase = 0x9 ∧ t.digestSet = true ∧
    t = { s with digest := t.digest, phase := t.phase, digestSet := t.digestSet }

/-- R180, R201, R205: START in IDLE and DONE takes every length up to MAX_LEN, and above it raises LEN_OVERFLOW with LEN not written;
in any other phase it is not accepted. -/
def Obligations.StartAcceptsOrFaults : Prop :=
  (∀ (s : State) (len : Nat), (s.phase = 0x0 ∨ s.phase = 0x9) → len ≤ 2 ^ 61 - 1 →
    ∃ t : State, exec (.start len) s = .next t ∧ t.len.toNat = len ∧ t.phase = 0x1 ∧
      t = { s with len := t.len, phase := t.phase }) ∧
  (∀ (s : State) (len : Nat), (s.phase = 0x0 ∨ s.phase = 0x9) → 2 ^ 61 ≤ len →
    exec (.start len) s = .next { s with fcode := 1, phase := 0xF }) ∧
  (∀ (s : State) (len : Nat), s.phase ≠ 0x0 → s.phase ≠ 0x9 → exec (.start len) s = .refused .startNotAccepted)

/-- R205, R200: the fault action writes the code and PHASE, and nothing else. -/
def Obligations.FaultActionWritesOnlyCodeAndPhase : Prop :=
  ∀ s : State, raiseFault .lenOverflow s = { s with fcode := 1, phase := 0xF } ∧
    raiseFault .blockAlign s = { s with fcode := 2, phase := 0xF }

/-- R40, R230, R33: what the spec gives of the state right after reset. -/
def Obligations.ResetStateIsIdle : Prop :=
  State.reset.phase = 0x0 ∧ State.reset.fcode = 0 ∧ State.reset.status = 0x00

/-- R230, R231, R207: reset, in any phase and whatever coincides with it, leaves IDLE with no fault code, and neither the message memory
nor what the host has read changes. Nothing is said of any other register. -/
def Obligations.ResetWinsInEveryPhase : Prop :=
  ∀ (s : State) (c : Option Instr) (rest : List Turn), s.turns = .reset c :: rest →
    ∃ t : State, step s = .next t ∧ t.phase = 0x0 ∧ t.fcode = 0 ∧ t.status = 0x00 ∧ t.msg = s.msg ∧ t.turns = rest ∧
      t.replies = s.replies ∧ step { s with turns := .reset none :: rest } = .next t

/-- R33, R183: STATUS is DONE * 128 + BUSY * 64 + FCODE * 16 + PHASE, and reading it changes nothing of the core. R33: a host write to
STATUS has no effect; that it is a move of the script is the model's reading (log 24, DEDUCED). -/
def Obligations.ReadStatusReturnsTheByte : Prop :=
  (∀ s : State, s.status.toNat = (if s.phase = 0x9 then 1 else 0) * 128 +
      (if 0x1 ≤ s.phase.toNat ∧ s.phase.toNat ≤ 0x8 then 1 else 0) * 64 + s.fcode.toNat * 16 + s.phase.toNat) ∧
  (∀ (s : State) (rest : List Turn), s.CodesLegal → s.turns = .readStatus :: rest →
    step s = .next { s with turns := rest, replies := .status s.status :: s.replies }) ∧
  (∀ (s : State) (v : BitVec 8) (rest : List Turn), s.CodesLegal → s.turns = .writeStatus v :: rest →
    step s = .next { s with turns := rest })

/-- R184, R36: once a digest has been written, READ DIGEST returns the register and changes nothing of the core. That it does so outside
DONE too is the model's choice (R184 and U5 let a model refuse; log 8). Before a digest is written some value is returned (U5: any value;
the model's choice of a free value, by its mark digestSet, is log 7). -/
def Obligations.ReadDigestReturnsTheRegister : Prop :=
  (∀ (s : State) (rest : List Turn), s.CodesLegal → s.turns = .readDigest :: rest → s.digestSet = true →
    step s = .next { s with turns := rest, replies := .digest s.digest :: s.replies }) ∧
  (∀ (s : State) (rest : List Turn), s.CodesLegal → s.turns = .readDigest :: rest → s.digestSet = false →
    ∃ d n, step s = .next { s with turns := rest, replies := .digest d :: s.replies, draws := n })

/-- R52, R240, U3, the model's refusal (log 4): a host write to MSG is refused exactly on the running transaction's own bytes; elsewhere
it changes that byte alone. -/
def Obligations.HostWritesLeaveARunningMessageAlone : Prop :=
  ∀ (s : State) (j : BitVec 61) (b : Byte) (rest : List Turn), s.CodesLegal → s.turns = .writeMsg j b :: rest → s.msg.wf = true →
    (1 ≤ s.phase.toNat ∧ s.phase.toNat ≤ 8 ∧ j.toNat < s.len.toNat → step s = .refused .messageHeld) ∧
    (¬ (1 ≤ s.phase.toNat ∧ s.phase.toNat ≤ 8 ∧ j.toNat < s.len.toNat) →
      ∃ t : State, step s = .next t ∧ t = { s with turns := rest, msg := t.msg } ∧ t.msg.wf = true ∧
        ∀ a, t.msg.read a = if a = j.toNat then b else s.msg.read a)

/-! ### Frames and whole-machine rules -/

/-- R20, R51: which instructions write which state. Whatever an instruction's outcome in a next state, each register changes only under
the instructions R20 names for it, and no instruction writes MSG, the host's replies, or the script. -/
def Obligations.RegistersChangeOnlyUnderTheirWriters : Prop :=
  ∀ (i : Instr) (s t : State), exec i s = .next t →
    (i ≠ .inith → i ≠ .feedfwd → t.hash = s.hash) ∧
    (i ≠ .initwr → i ≠ .round → t.work = s.work) ∧
    (i ≠ .loadblk → i ≠ .expand → t.w = s.w) ∧
    ((∀ len, i ≠ .start len) → t.len = s.len ∧ t.fcode = s.fcode) ∧
    (i ≠ .pad → t.bitlen = s.bitlen ∧ t.nblk = s.nblk) ∧
    (i ≠ .inith → i ≠ .feedfwd → t.blk = s.blk) ∧
    (i ≠ .loadblk → i ≠ .expand → i ≠ .initwr → i ≠ .round → t.t = s.t) ∧
    (i ≠ .serialize → t.digest = s.digest ∧ t.digestSet = s.digestSet) ∧
    (∀ a, t.msg.read a = s.msg.read a) ∧ t.msg = s.msg ∧ t.turns = s.turns ∧ t.replies = s.replies ∧ t.draws = s.draws

/-- R186: the transition table, row by row, for a machine in a legal state whose engine moves. -/
def Obligations.TransitionTable : Prop :=
  ∀ s : State, s.Inv → s.turns = [] → 1 ≤ s.phase.toNat → s.phase.toNat ≤ 8 →
    ∃ t : State, step s = .next t ∧
      (s.phase = 0x1 → t.phase = 0x2 ∧ t.blk = s.blk ∧ t.t = s.t) ∧
      (s.phase = 0x2 → t.phase = 0x3 ∧ t.blk = 0 ∧ t.t = s.t) ∧
      (s.phase = 0x3 → t.phase = 0x4 ∧ t.blk = s.blk ∧ t.t = 16) ∧
      (s.phase = 0x4 → s.t.toNat < 63 → t.phase = 0x4 ∧ t.blk = s.blk ∧ t.t.toNat = s.t.toNat + 1) ∧
      (s.phase = 0x4 → s.t.toNat = 63 → t.phase = 0x5 ∧ t.blk = s.blk ∧ t.t = s.t) ∧
      (s.phase = 0x5 → t.phase = 0x6 ∧ t.blk = s.blk ∧ t.t = 0) ∧
      (s.phase = 0x6 → s.t.toNat < 63 → t.phase = 0x6 ∧ t.blk = s.blk ∧ t.t.toNat = s.t.toNat + 1) ∧
      (s.phase = 0x6 → s.t.toNat = 63 → t.phase = 0x7 ∧ t.blk = s.blk ∧ t.t = s.t) ∧
      (s.phase = 0x7 → s.blk.toNat + 1 < s.nblk.toNat → t.phase = 0x3 ∧ t.blk.toNat = s.blk.toNat + 1 ∧ t.t = s.t) ∧
      (s.phase = 0x7 → s.blk.toNat + 1 = s.nblk.toNat → t.phase = 0x8 ∧ t.blk = s.blk ∧ t.t = s.t) ∧
      (s.phase = 0x8 → t.phase = 0x9 ∧ t.blk = s.blk ∧ t.t = s.t) ∧
      t.fcode = s.fcode

/-- R34, R186, R210: phase FAULT, and the code in FCODE, are left by reset only. -/
def Obligations.FaultIsLeftByResetOnly : Prop :=
  ∀ s t : State, s.phase = 0xF → step s = .next t →
    (t.phase = 0xF ∧ t.fcode = s.fcode) ∨
    (∃ c rest, s.turns = .reset c :: rest ∧ t.phase = 0x0 ∧ t.fcode = 0)

/-- R36, R172: a step that changes DIGEST is SERIALIZE or reset. -/
def Obligations.DigestChangesOnlyAtSerializeOrReset : Prop :=
  ∀ s t : State, step s = .next t → t.digest ≠ s.digest →
    (s.phase = 0x8 ∧ t.phase = 0x9 ∧ (s.turns = [] ∨ ∃ rest, s.turns = .engine :: rest)) ∨
    (∃ c rest, s.turns = .reset c :: rest ∧ t.phase = 0x0)

/-- R196: no host move but reset ends a running transaction early, moves it, or changes its length or message; it ends, in DONE, only by
the engine's own step from phase SER. -/
def Obligations.NoAbortButReset : Prop :=
  ∀ s t : State, s.Inv → 1 ≤ s.phase.toNat → s.phase.toNat ≤ 8 → step s = .next t →
    (t.len = s.len ∧ t.message = s.message ∧ 1 ≤ t.phase.toNat ∧ t.phase.toNat ≤ 9 ∧
      (t.phase = 0x9 → s.phase = 0x8 ∧ (s.turns = [] ∨ ∃ rest, s.turns = .engine :: rest)) ∧
      (∀ m rest, s.turns = m :: rest → m ≠ .engine →
        t.phase = s.phase ∧ t.blk = s.blk ∧ t.t = s.t ∧ t.nblk = s.nblk ∧ t.bitlen = s.bitlen)) ∨
    (∃ c rest, s.turns = .reset c :: rest ∧ t.phase = 0x0)

/-- R186, R24 to R28, R34, R85: the reset state is legal. -/
def Obligations.ResetStateIsLegal : Prop := State.reset.Inv

/-- R186, R24 to R28, R31, R34, R202: every step of a legal state leads to a legal state, whoever moves. -/
def Obligations.EveryStepKeepsTheStateLegal : Prop :=
  ∀ s t : State, s.Inv → step s = .next t → t.Inv

/-- R203, R59, R60: from a legal state no step ends in a fault of the model, and a refusal answers a move of the host that breaks one of
its duties: a reserved command, a START in a phase that is neither IDLE nor DONE, or a write to the running message. That the model
refuses these is logs 4 and 9. -/
def Obligations.LegalStatesStepSafely : Prop :=
  ∀ s : State, s.Inv → SafeOutcome (step s) ∧
    ∀ r, step s = .refused r →
      (∃ c l rest, s.turns = .command c l :: rest ∧ 2 ≤ c.toNat ∧ r = .reservedCommand c) ∨
      (∃ l rest, s.turns = .command 0b01 l :: rest ∧ s.phase ≠ 0x0 ∧ s.phase ≠ 0x9 ∧ r = .startNotAccepted) ∨
      (∃ j b rest, s.turns = .writeMsg j b :: rest ∧ 1 ≤ s.phase.toNat ∧ s.phase.toNat ≤ 8 ∧ j.toNat < s.len.toNat ∧
        r = .messageHeld)

/-- R195, R188, R251, R86: in a legal state with a busy engine to move, the step completes and one operation fewer is left; when a
transaction begins, 3 + 115 * NBLK are left, the length of the trace of DIGEST. -/
def Obligations.BusyEngineCountsDown : Prop :=
  (∀ s : State, s.Inv → s.turns = [] → 1 ≤ s.phase.toNat → s.phase.toNat ≤ 8 →
    ∃ t, step s = .next t ∧ opsLeft t + 1 = opsLeft s) ∧
  (∀ s : State, s.phase = 0x1 → opsLeft s = 3 + 115 * blockCount s.len.toNat ∧
    (digestOps (blockCount s.len.toNat)).length = opsLeft s)

/-- R86, R186: from an accepted START the engine runs exactly the operations of the pseudo-operation DIGEST, in order. -/
def Obligations.TransactionRunsTheDigestTrace : Prop :=
  ∀ (s : State) (n : Nat) (i : Instr), s.fcode ≠ 3 → s.turns = [] → s.phase = 0x1 → s.len.toNat ≤ Config.maxLen →
    (digestOps (blockCount s.len.toNat))[n]? = some i →
    ∃ t : State, Sys2Proof.core.run n s = .next t ∧ t.turns = [] ∧ decode (.op t.phase) = .ok i

/-- R142: LOADBLK and the 48 EXPANDs of a block leave W = Schedule(Split(Pad(msg))[BLK]) and PHASE = INITWR, and touch nothing but W
and T. -/
def Obligations.ScheduleOfABlock : Prop :=
  ∀ s : State, s.Geometry → s.fcode ≠ 3 → s.turns = [] → s.phase = 0x3 → s.blk.toNat < s.nblk.toNat →
    ∃ (bs : List Block) (t : State), splitBlocks (padMessage s.message) = .ok bs ∧
      Sys2Proof.core.run 49 s = .next t ∧ t.w.toList = schedule (bs.getD s.blk.toNat []) ∧ t.phase = 0x5 ∧
      t = { s with w := t.w, t := t.t, phase := t.phase }

/-- R157: INITWR, 64 ROUNDs and FEEDFWD of a block leave H = Compress(Hin, M), where W holds Schedule(M). -/
def Obligations.CompressionOfABlock : Prop :=
  ∀ (s : State) (block : Block), s.fcode ≠ 3 → s.turns = [] → s.phase = 0x5 → s.blk.toNat < s.nblk.toNat →
    s.w.toList = schedule block →
    ∃ t : State, Sys2Proof.core.run 66 s = .next t ∧ t.hash = compress s.hash block ∧
      (s.blk.toNat + 1 = s.nblk.toNat → t.phase = 0x8 ∧ t.blk = s.blk) ∧
      (s.blk.toNat + 1 ≠ s.nblk.toNat → t.phase = 0x3 ∧ t.blk.toNat = s.blk.toNat + 1) ∧
      t = { s with hash := t.hash, work := t.work, t := t.t, blk := t.blk, phase := t.phase }

/-- R188, R173: an accepted START of a length up to MAX_LEN ends, after exactly 3 + 115 * NBLK engine operations, in DONE with DIGEST the
digest of MSG[0..L-1], from any contents of every other register (FCODE not the reserved 3): with the engine alone, and with any moves of a host that keeps its duty
of R52 between the operations (NOCMD, reads, writes to STATUS, writes to MSG at or above L). That digestSet is true is the model's own mark
(log 7). -/
def Obligations.TransactionComputesTheDigest : Prop :=
  (∀ (s : State) (len : BitVec 64), (s.phase = 0x0 ∨ s.phase = 0x9) → s.fcode ≠ 3 → len.toNat ≤ Config.maxLen →
    s.turns = [.command 0b01 len] →
    ∃ (t : State) (d : List Byte),
      Sys2Proof.core.run (1 + (3 + 115 * ((len.toNat + 8) / 64 + 1))) s = .next t ∧ t.phase = 0x9 ∧
      digestOf (s.msg.message len.toNat) = .ok d ∧ t.digest.toList = d ∧ t.digestSet = true ∧ t.fcode = s.fcode ∧
      t.msg = s.msg ∧ t.replies = s.replies) ∧
  (∀ (s : State) (len : BitVec 64) (ts : List Turn), (s.phase = 0x0 ∨ s.phase = 0x9) → s.fcode ≠ 3 → len.toNat ≤ Config.maxLen →
    s.turns = .command 0b01 len :: ts → (∀ m ∈ ts, m = .engine ∨ dutifulTurn len m = true) →
    ts.count .engine = 3 + 115 * ((len.toNat + 8) / 64 + 1) →
    ∃ (t : State) (d : List Byte),
      Sys2Proof.core.run (1 + ts.length) s = .next t ∧ t.turns = [] ∧ t.phase = 0x9 ∧
      digestOf (s.msg.message len.toNat) = .ok d ∧ t.digest.toList = d ∧ t.digestSet = true ∧ t.fcode = s.fcode ∧
      t.msg = hostWrites ts s.msg)

/-- R192, R233, R8: two machines with the same message bytes get the same digest, whatever any register of either held before (FCODE not
the reserved 3). -/
def Obligations.TransactionsAreIndependent : Prop :=
  ∀ (s s' : State) (len : BitVec 64), (s.phase = 0x0 ∨ s.phase = 0x9) → (s'.phase = 0x0 ∨ s'.phase = 0x9) →
    s.fcode ≠ 3 → s'.fcode ≠ 3 → len.toNat ≤ Config.maxLen → (∀ j, j < len.toNat → s.msg.read j = s'.msg.read j) →
    s.turns = [.command 0b01 len] → s'.turns = [.command 0b01 len] →
    ∃ t t' : State,
      Sys2Proof.core.run (1 + (3 + 115 * blockCount len.toNat)) s = .next t ∧
      Sys2Proof.core.run (1 + (3 + 115 * blockCount len.toNat)) s' = .next t' ∧
      t.digest = t'.digest ∧ t.phase = 0x9 ∧ t'.phase = 0x9

/-- R189, R52: nothing in the engine depends on how many reads, NOCMDs, STATUS writes, and writes to MSG at or above LEN, of the host fall
between its steps: the core ends the same, the message stays, and MSG holds what the host has written. -/
def Obligations.QuietHostMovesDoNotDisturbTheEngine : Prop :=
  ∀ (ts : List Turn) (s t : State), s.CodesLegal → (∀ m ∈ ts, m = .engine ∨ dutifulTurn s.len m = true) →
    Sys2Proof.core.run (ts.count .engine) { s with turns := [] } = .next t →
    ∃ t' : State, Sys2Proof.core.run ts.length { s with turns := ts } = .next t' ∧ t'.turns = [] ∧
      t'.withoutHost = { t.withoutHost with msg := hostWrites ts s.msg } ∧ t'.message = t.message

/-- R64, R215: a step of one instance changes no other instance. -/
def Obligations.InstancesDoNotInteract : Prop :=
  ∀ (p q : Platform) (k : Nat), Platform.stepAt k p = .next q →
    q.length = p.length ∧ (∀ j, j ≠ k → q[j]? = p[j]?) ∧
    ∃ s t, p[k]? = some s ∧ step s = .next t ∧ q[k]? = some t

/-- R216: under any interleaving each instance ends where its own steps alone take it. -/
def Obligations.InterleavedInstancesRunAlone : Prop :=
  ∀ (ks : List Nat) (p q : Platform), Platform.run ks p = .next q →
    ∀ (k : Nat) (s : State), p[k]? = some s →
      ∃ t, Sys2Proof.core.run (ks.count k) s = .next t ∧ q[k]? = some t

/-- The model's memory (log 3): two message memories in canonical form that read the same at every index are the same list. -/
def Obligations.CanonicalMemoriesAreEqualWhenReadsAre : Prop :=
  ∀ m m' : Memory, m.wf = true → m'.wf = true → (∀ a, m.read a = m'.read a) → m = m'
end

