-- ==== Sys2Proof/Laws/Memory.lean ====
section
/-! SUPPORT. The laws of the message memory: a write keeps the canonical form, is read back, and leaves every other index alone. -/

namespace Sys2Proof.Machine

/-- The entry a list in canonical form begins with. -/
theorem Memory.wfFrom_cons {lo k : Nat} {b : Byte} {rest : Memory} :
    Memory.wfFrom lo ((k, b) :: rest) = true ↔
      lo ≤ k ∧ k < Memory.size ∧ b ≠ Memory.blank ∧ Memory.wfFrom (k + 1) rest = true := by
  simp [Memory.wfFrom, and_assoc]

/-- The lower bound may be lowered. -/
theorem Memory.wfFrom_mono {m : Memory} {lo lo' : Nat} (h : Memory.wfFrom lo m = true) (hle : lo' ≤ lo) :
    Memory.wfFrom lo' m = true := by
  cases m with
  | nil => rfl
  | cons e rest =>
    obtain ⟨k, b⟩ := e
    rw [Memory.wfFrom_cons] at h ⊢
    exact ⟨hle.trans h.1, h.2⟩

/-- An index below every listed one reads as blank. -/
theorem Memory.read_below {m : Memory} {lo a : Nat} (h : Memory.wfFrom lo m = true) (ha : a < lo) :
    m.read a = Memory.blank := by
  induction m generalizing lo with
  | nil => rfl
  | cons e rest ih =>
    obtain ⟨k, b⟩ := e
    rw [Memory.wfFrom_cons] at h
    rw [Memory.read, if_neg (by omega)]
    exact ih h.2.2.2 (by omega)

/-- A write keeps the canonical form, from any lower bound. -/
theorem Memory.write_wfFrom {m : Memory} {lo a : Nat} {b : Byte} (h : Memory.wfFrom lo m = true) (hlo : lo ≤ a)
    (ha : a < Memory.size) : Memory.wfFrom lo (m.write a b) = true := by
  induction m generalizing lo with
  | nil =>
    rw [Memory.write]
    split
    · rfl
    · rename_i hb; rw [Memory.wfFrom_cons]; exact ⟨hlo, ha, hb, rfl⟩
  | cons e rest ih =>
    obtain ⟨k, c⟩ := e
    have h' := Memory.wfFrom_cons.1 h
    rw [Memory.write]
    split
    · split
      · exact h
      · rename_i hk hb
        rw [Memory.wfFrom_cons, Memory.wfFrom_cons]
        exact ⟨hlo, ha, hb, by omega, h'.2⟩
    · split
      · rename_i hk hak
        subst hak
        split
        · exact Memory.wfFrom_mono h'.2.2.2 (by omega)
        · rename_i hb; rw [Memory.wfFrom_cons]; exact ⟨hlo, ha, hb, h'.2.2.2⟩
      · rw [Memory.wfFrom_cons]
        exact ⟨h'.1, h'.2.1, h'.2.2.1, ih h'.2.2.2 (by omega)⟩

/-- A write inside the address space keeps the canonical form. -/
theorem Memory.write_wf {m : Memory} {a : Nat} {b : Byte} (h : m.wf = true) (ha : a < Memory.size) :
    (m.write a b).wf = true :=
  Memory.write_wfFrom h (Nat.zero_le a) ha

/-- What a read answers after a write. -/
theorem Memory.read_write_from {m : Memory} {lo : Nat} (a x : Nat) (b : Byte) (h : Memory.wfFrom lo m = true) :
    (m.write a b).read x = if x = a then b else m.read x := by
  induction m generalizing lo with
  | nil =>
    rw [Memory.write]
    split
    · rename_i hb; simp [Memory.read, hb]
    · rfl
  | cons e rest ih =>
    obtain ⟨k, c⟩ := e
    have h' := Memory.wfFrom_cons.1 h
    rw [Memory.write]
    split
    · rename_i hk
      split
      · rename_i hb
        split
        · rename_i hx; subst hx; rw [hb]; exact Memory.read_below (lo := k) (Memory.wfFrom_cons.2 ⟨le_rfl, h'.2⟩) hk
        · rfl
      · rfl
    · rename_i hk
      split
      · rename_i hak
        subst hak
        split
        · rename_i hb
          by_cases hx : x = a
          · subst hx; rw [if_pos rfl, hb]; exact Memory.read_below h'.2.2.2 (Nat.lt_succ_self _)
          · simp [Memory.read, hx]
        · by_cases hx : x = a <;> simp [Memory.read, hx]
      · rename_i hak
        rw [Memory.read, ih h'.2.2.2, Memory.read]
        by_cases hx : x = k
        · subst hx; rw [if_pos rfl, if_neg (Ne.symm hak), if_pos rfl]
        · rw [if_neg hx, if_neg hx]

/-- A write leaves every other index alone, in any list. -/
theorem Memory.read_write_ne (m : Memory) {a x : Nat} (b : Byte) (h : x ≠ a) : (m.write a b).read x = m.read x := by
  induction m with
  | nil =>
    rw [Memory.write]
    split
    · rfl
    · simp [Memory.read, h]
  | cons e rest ih =>
    obtain ⟨k, c⟩ := e
    rw [Memory.write]
    split_ifs with h1 h2 h3 h4
    · rfl
    · simp [Memory.read, h]
    · simp [Memory.read, h3 ▸ h]
    · simp [Memory.read, h, h3 ▸ h]
    · simp [Memory.read, ih]

/-- A read after a write: the value written there, the old value elsewhere. -/
theorem Memory.read_write {m : Memory} (a x : Nat) (b : Byte) (h : m.wf = true) :
    (m.write a b).read x = if x = a then b else m.read x :=
  Memory.read_write_from a x b h

/-- The message has one byte an index. -/
@[simp] theorem Memory.message_length (m : Memory) (len : Nat) : (m.message len).length = len := by
  simp [Memory.message]

/-- Byte j of the message is MSG[j] (R50). -/
theorem Memory.message_getD (m : Memory) {len j : Nat} (h : j < len) : (m.message len).getD j 0 = m.read j := by
  simp [Memory.message, List.getD, h]

end Sys2Proof.Machine
end

