-- ==== Sys2Proof/Laws/State.lean ====
section
/-! SUPPORT. One lemma for each field of State under each update of Machine/Ops.lean, so that no proof unfolds a record update. -/

namespace Sys2Proof.Machine

variable (s : State)

@[simp] theorem State.putPhase_hash (p : BitVec 4) : (s.putPhase p).hash = s.hash := rfl
@[simp] theorem State.putPhase_work (p : BitVec 4) : (s.putPhase p).work = s.work := rfl
@[simp] theorem State.putPhase_w (p : BitVec 4) : (s.putPhase p).w = s.w := rfl
@[simp] theorem State.putPhase_len (p : BitVec 4) : (s.putPhase p).len = s.len := rfl
@[simp] theorem State.putPhase_bitlen (p : BitVec 4) : (s.putPhase p).bitlen = s.bitlen := rfl
@[simp] theorem State.putPhase_nblk (p : BitVec 4) : (s.putPhase p).nblk = s.nblk := rfl
@[simp] theorem State.putPhase_blk (p : BitVec 4) : (s.putPhase p).blk = s.blk := rfl
@[simp] theorem State.putPhase_t (p : BitVec 4) : (s.putPhase p).t = s.t := rfl
@[simp] theorem State.putPhase_phase (p : BitVec 4) : (s.putPhase p).phase = p := rfl
@[simp] theorem State.putPhase_fcode (p : BitVec 4) : (s.putPhase p).fcode = s.fcode := rfl
@[simp] theorem State.putPhase_digest (p : BitVec 4) : (s.putPhase p).digest = s.digest := rfl
@[simp] theorem State.putPhase_msg (p : BitVec 4) : (s.putPhase p).msg = s.msg := rfl
@[simp] theorem State.putPhase_turns (p : BitVec 4) : (s.putPhase p).turns = s.turns := rfl
@[simp] theorem State.putPhase_replies (p : BitVec 4) : (s.putPhase p).replies = s.replies := rfl
@[simp] theorem State.putPhase_digestSet (p : BitVec 4) : (s.putPhase p).digestSet = s.digestSet := rfl
@[simp] theorem State.putPhase_draws (p : BitVec 4) : (s.putPhase p).draws = s.draws := rfl

@[simp] theorem State.putFcode_hash (c : BitVec 2) : (s.putFcode c).hash = s.hash := rfl
@[simp] theorem State.putFcode_work (c : BitVec 2) : (s.putFcode c).work = s.work := rfl
@[simp] theorem State.putFcode_w (c : BitVec 2) : (s.putFcode c).w = s.w := rfl
@[simp] theorem State.putFcode_len (c : BitVec 2) : (s.putFcode c).len = s.len := rfl
@[simp] theorem State.putFcode_bitlen (c : BitVec 2) : (s.putFcode c).bitlen = s.bitlen := rfl
@[simp] theorem State.putFcode_nblk (c : BitVec 2) : (s.putFcode c).nblk = s.nblk := rfl
@[simp] theorem State.putFcode_blk (c : BitVec 2) : (s.putFcode c).blk = s.blk := rfl
@[simp] theorem State.putFcode_t (c : BitVec 2) : (s.putFcode c).t = s.t := rfl
@[simp] theorem State.putFcode_phase (c : BitVec 2) : (s.putFcode c).phase = s.phase := rfl
@[simp] theorem State.putFcode_fcode (c : BitVec 2) : (s.putFcode c).fcode = c := rfl
@[simp] theorem State.putFcode_digest (c : BitVec 2) : (s.putFcode c).digest = s.digest := rfl
@[simp] theorem State.putFcode_msg (c : BitVec 2) : (s.putFcode c).msg = s.msg := rfl
@[simp] theorem State.putFcode_turns (c : BitVec 2) : (s.putFcode c).turns = s.turns := rfl
@[simp] theorem State.putFcode_replies (c : BitVec 2) : (s.putFcode c).replies = s.replies := rfl
@[simp] theorem State.putFcode_digestSet (c : BitVec 2) : (s.putFcode c).digestSet = s.digestSet := rfl
@[simp] theorem State.putFcode_draws (c : BitVec 2) : (s.putFcode c).draws = s.draws := rfl

@[simp] theorem State.putLen_hash (l : BitVec 64) : (s.putLen l).hash = s.hash := rfl
@[simp] theorem State.putLen_work (l : BitVec 64) : (s.putLen l).work = s.work := rfl
@[simp] theorem State.putLen_w (l : BitVec 64) : (s.putLen l).w = s.w := rfl
@[simp] theorem State.putLen_len (l : BitVec 64) : (s.putLen l).len = l := rfl
@[simp] theorem State.putLen_bitlen (l : BitVec 64) : (s.putLen l).bitlen = s.bitlen := rfl
@[simp] theorem State.putLen_nblk (l : BitVec 64) : (s.putLen l).nblk = s.nblk := rfl
@[simp] theorem State.putLen_blk (l : BitVec 64) : (s.putLen l).blk = s.blk := rfl
@[simp] theorem State.putLen_t (l : BitVec 64) : (s.putLen l).t = s.t := rfl
@[simp] theorem State.putLen_phase (l : BitVec 64) : (s.putLen l).phase = s.phase := rfl
@[simp] theorem State.putLen_fcode (l : BitVec 64) : (s.putLen l).fcode = s.fcode := rfl
@[simp] theorem State.putLen_digest (l : BitVec 64) : (s.putLen l).digest = s.digest := rfl
@[simp] theorem State.putLen_msg (l : BitVec 64) : (s.putLen l).msg = s.msg := rfl
@[simp] theorem State.putLen_turns (l : BitVec 64) : (s.putLen l).turns = s.turns := rfl
@[simp] theorem State.putLen_replies (l : BitVec 64) : (s.putLen l).replies = s.replies := rfl
@[simp] theorem State.putLen_digestSet (l : BitVec 64) : (s.putLen l).digestSet = s.digestSet := rfl
@[simp] theorem State.putLen_draws (l : BitVec 64) : (s.putLen l).draws = s.draws := rfl

@[simp] theorem State.putBitlen_hash (v : BitVec 64) : (s.putBitlen v).hash = s.hash := rfl
@[simp] theorem State.putBitlen_work (v : BitVec 64) : (s.putBitlen v).work = s.work := rfl
@[simp] theorem State.putBitlen_w (v : BitVec 64) : (s.putBitlen v).w = s.w := rfl
@[simp] theorem State.putBitlen_len (v : BitVec 64) : (s.putBitlen v).len = s.len := rfl
@[simp] theorem State.putBitlen_bitlen (v : BitVec 64) : (s.putBitlen v).bitlen = v := rfl
@[simp] theorem State.putBitlen_nblk (v : BitVec 64) : (s.putBitlen v).nblk = s.nblk := rfl
@[simp] theorem State.putBitlen_blk (v : BitVec 64) : (s.putBitlen v).blk = s.blk := rfl
@[simp] theorem State.putBitlen_t (v : BitVec 64) : (s.putBitlen v).t = s.t := rfl
@[simp] theorem State.putBitlen_phase (v : BitVec 64) : (s.putBitlen v).phase = s.phase := rfl
@[simp] theorem State.putBitlen_fcode (v : BitVec 64) : (s.putBitlen v).fcode = s.fcode := rfl
@[simp] theorem State.putBitlen_digest (v : BitVec 64) : (s.putBitlen v).digest = s.digest := rfl
@[simp] theorem State.putBitlen_msg (v : BitVec 64) : (s.putBitlen v).msg = s.msg := rfl
@[simp] theorem State.putBitlen_turns (v : BitVec 64) : (s.putBitlen v).turns = s.turns := rfl
@[simp] theorem State.putBitlen_replies (v : BitVec 64) : (s.putBitlen v).replies = s.replies := rfl
@[simp] theorem State.putBitlen_digestSet (v : BitVec 64) : (s.putBitlen v).digestSet = s.digestSet := rfl
@[simp] theorem State.putBitlen_draws (v : BitVec 64) : (s.putBitlen v).draws = s.draws := rfl

@[simp] theorem State.putNblk_hash (n : BitVec 56) : (s.putNblk n).hash = s.hash := rfl
@[simp] theorem State.putNblk_work (n : BitVec 56) : (s.putNblk n).work = s.work := rfl
@[simp] theorem State.putNblk_w (n : BitVec 56) : (s.putNblk n).w = s.w := rfl
@[simp] theorem State.putNblk_len (n : BitVec 56) : (s.putNblk n).len = s.len := rfl
@[simp] theorem State.putNblk_bitlen (n : BitVec 56) : (s.putNblk n).bitlen = s.bitlen := rfl
@[simp] theorem State.putNblk_nblk (n : BitVec 56) : (s.putNblk n).nblk = n := rfl
@[simp] theorem State.putNblk_blk (n : BitVec 56) : (s.putNblk n).blk = s.blk := rfl
@[simp] theorem State.putNblk_t (n : BitVec 56) : (s.putNblk n).t = s.t := rfl
@[simp] theorem State.putNblk_phase (n : BitVec 56) : (s.putNblk n).phase = s.phase := rfl
@[simp] theorem State.putNblk_fcode (n : BitVec 56) : (s.putNblk n).fcode = s.fcode := rfl
@[simp] theorem State.putNblk_digest (n : BitVec 56) : (s.putNblk n).digest = s.digest := rfl
@[simp] theorem State.putNblk_msg (n : BitVec 56) : (s.putNblk n).msg = s.msg := rfl
@[simp] theorem State.putNblk_turns (n : BitVec 56) : (s.putNblk n).turns = s.turns := rfl
@[simp] theorem State.putNblk_replies (n : BitVec 56) : (s.putNblk n).replies = s.replies := rfl
@[simp] theorem State.putNblk_digestSet (n : BitVec 56) : (s.putNblk n).digestSet = s.digestSet := rfl
@[simp] theorem State.putNblk_draws (n : BitVec 56) : (s.putNblk n).draws = s.draws := rfl

@[simp] theorem State.putBlk_hash (i : BitVec 56) : (s.putBlk i).hash = s.hash := rfl
@[simp] theorem State.putBlk_work (i : BitVec 56) : (s.putBlk i).work = s.work := rfl
@[simp] theorem State.putBlk_w (i : BitVec 56) : (s.putBlk i).w = s.w := rfl
@[simp] theorem State.putBlk_len (i : BitVec 56) : (s.putBlk i).len = s.len := rfl
@[simp] theorem State.putBlk_bitlen (i : BitVec 56) : (s.putBlk i).bitlen = s.bitlen := rfl
@[simp] theorem State.putBlk_nblk (i : BitVec 56) : (s.putBlk i).nblk = s.nblk := rfl
@[simp] theorem State.putBlk_blk (i : BitVec 56) : (s.putBlk i).blk = i := rfl
@[simp] theorem State.putBlk_t (i : BitVec 56) : (s.putBlk i).t = s.t := rfl
@[simp] theorem State.putBlk_phase (i : BitVec 56) : (s.putBlk i).phase = s.phase := rfl
@[simp] theorem State.putBlk_fcode (i : BitVec 56) : (s.putBlk i).fcode = s.fcode := rfl
@[simp] theorem State.putBlk_digest (i : BitVec 56) : (s.putBlk i).digest = s.digest := rfl
@[simp] theorem State.putBlk_msg (i : BitVec 56) : (s.putBlk i).msg = s.msg := rfl
@[simp] theorem State.putBlk_turns (i : BitVec 56) : (s.putBlk i).turns = s.turns := rfl
@[simp] theorem State.putBlk_replies (i : BitVec 56) : (s.putBlk i).replies = s.replies := rfl
@[simp] theorem State.putBlk_digestSet (i : BitVec 56) : (s.putBlk i).digestSet = s.digestSet := rfl
@[simp] theorem State.putBlk_draws (i : BitVec 56) : (s.putBlk i).draws = s.draws := rfl

@[simp] theorem State.putT_hash (t : BitVec 6) : (s.putT t).hash = s.hash := rfl
@[simp] theorem State.putT_work (t : BitVec 6) : (s.putT t).work = s.work := rfl
@[simp] theorem State.putT_w (t : BitVec 6) : (s.putT t).w = s.w := rfl
@[simp] theorem State.putT_len (t : BitVec 6) : (s.putT t).len = s.len := rfl
@[simp] theorem State.putT_bitlen (t : BitVec 6) : (s.putT t).bitlen = s.bitlen := rfl
@[simp] theorem State.putT_nblk (t : BitVec 6) : (s.putT t).nblk = s.nblk := rfl
@[simp] theorem State.putT_blk (t : BitVec 6) : (s.putT t).blk = s.blk := rfl
@[simp] theorem State.putT_t (t : BitVec 6) : (s.putT t).t = t := rfl
@[simp] theorem State.putT_phase (t : BitVec 6) : (s.putT t).phase = s.phase := rfl
@[simp] theorem State.putT_fcode (t : BitVec 6) : (s.putT t).fcode = s.fcode := rfl
@[simp] theorem State.putT_digest (t : BitVec 6) : (s.putT t).digest = s.digest := rfl
@[simp] theorem State.putT_msg (t : BitVec 6) : (s.putT t).msg = s.msg := rfl
@[simp] theorem State.putT_turns (t : BitVec 6) : (s.putT t).turns = s.turns := rfl
@[simp] theorem State.putT_replies (t : BitVec 6) : (s.putT t).replies = s.replies := rfl
@[simp] theorem State.putT_digestSet (t : BitVec 6) : (s.putT t).digestSet = s.digestSet := rfl
@[simp] theorem State.putT_draws (t : BitVec 6) : (s.putT t).draws = s.draws := rfl

@[simp] theorem State.putHash_hash (h : Vector Word 8) : (s.putHash h).hash = h := rfl
@[simp] theorem State.putHash_work (h : Vector Word 8) : (s.putHash h).work = s.work := rfl
@[simp] theorem State.putHash_w (h : Vector Word 8) : (s.putHash h).w = s.w := rfl
@[simp] theorem State.putHash_len (h : Vector Word 8) : (s.putHash h).len = s.len := rfl
@[simp] theorem State.putHash_bitlen (h : Vector Word 8) : (s.putHash h).bitlen = s.bitlen := rfl
@[simp] theorem State.putHash_nblk (h : Vector Word 8) : (s.putHash h).nblk = s.nblk := rfl
@[simp] theorem State.putHash_blk (h : Vector Word 8) : (s.putHash h).blk = s.blk := rfl
@[simp] theorem State.putHash_t (h : Vector Word 8) : (s.putHash h).t = s.t := rfl
@[simp] theorem State.putHash_phase (h : Vector Word 8) : (s.putHash h).phase = s.phase := rfl
@[simp] theorem State.putHash_fcode (h : Vector Word 8) : (s.putHash h).fcode = s.fcode := rfl
@[simp] theorem State.putHash_digest (h : Vector Word 8) : (s.putHash h).digest = s.digest := rfl
@[simp] theorem State.putHash_msg (h : Vector Word 8) : (s.putHash h).msg = s.msg := rfl
@[simp] theorem State.putHash_turns (h : Vector Word 8) : (s.putHash h).turns = s.turns := rfl
@[simp] theorem State.putHash_replies (h : Vector Word 8) : (s.putHash h).replies = s.replies := rfl
@[simp] theorem State.putHash_digestSet (h : Vector Word 8) : (s.putHash h).digestSet = s.digestSet := rfl
@[simp] theorem State.putHash_draws (h : Vector Word 8) : (s.putHash h).draws = s.draws := rfl

@[simp] theorem State.putWork_hash (r : Work) : (s.putWork r).hash = s.hash := rfl
@[simp] theorem State.putWork_work (r : Work) : (s.putWork r).work = r := rfl
@[simp] theorem State.putWork_w (r : Work) : (s.putWork r).w = s.w := rfl
@[simp] theorem State.putWork_len (r : Work) : (s.putWork r).len = s.len := rfl
@[simp] theorem State.putWork_bitlen (r : Work) : (s.putWork r).bitlen = s.bitlen := rfl
@[simp] theorem State.putWork_nblk (r : Work) : (s.putWork r).nblk = s.nblk := rfl
@[simp] theorem State.putWork_blk (r : Work) : (s.putWork r).blk = s.blk := rfl
@[simp] theorem State.putWork_t (r : Work) : (s.putWork r).t = s.t := rfl
@[simp] theorem State.putWork_phase (r : Work) : (s.putWork r).phase = s.phase := rfl
@[simp] theorem State.putWork_fcode (r : Work) : (s.putWork r).fcode = s.fcode := rfl
@[simp] theorem State.putWork_digest (r : Work) : (s.putWork r).digest = s.digest := rfl
@[simp] theorem State.putWork_msg (r : Work) : (s.putWork r).msg = s.msg := rfl
@[simp] theorem State.putWork_turns (r : Work) : (s.putWork r).turns = s.turns := rfl
@[simp] theorem State.putWork_replies (r : Work) : (s.putWork r).replies = s.replies := rfl
@[simp] theorem State.putWork_digestSet (r : Work) : (s.putWork r).digestSet = s.digestSet := rfl
@[simp] theorem State.putWork_draws (r : Work) : (s.putWork r).draws = s.draws := rfl

@[simp] theorem State.putW_hash (w : Vector Word 64) : (s.putW w).hash = s.hash := rfl
@[simp] theorem State.putW_work (w : Vector Word 64) : (s.putW w).work = s.work := rfl
@[simp] theorem State.putW_w (w : Vector Word 64) : (s.putW w).w = w := rfl
@[simp] theorem State.putW_len (w : Vector Word 64) : (s.putW w).len = s.len := rfl
@[simp] theorem State.putW_bitlen (w : Vector Word 64) : (s.putW w).bitlen = s.bitlen := rfl
@[simp] theorem State.putW_nblk (w : Vector Word 64) : (s.putW w).nblk = s.nblk := rfl
@[simp] theorem State.putW_blk (w : Vector Word 64) : (s.putW w).blk = s.blk := rfl
@[simp] theorem State.putW_t (w : Vector Word 64) : (s.putW w).t = s.t := rfl
@[simp] theorem State.putW_phase (w : Vector Word 64) : (s.putW w).phase = s.phase := rfl
@[simp] theorem State.putW_fcode (w : Vector Word 64) : (s.putW w).fcode = s.fcode := rfl
@[simp] theorem State.putW_digest (w : Vector Word 64) : (s.putW w).digest = s.digest := rfl
@[simp] theorem State.putW_msg (w : Vector Word 64) : (s.putW w).msg = s.msg := rfl
@[simp] theorem State.putW_turns (w : Vector Word 64) : (s.putW w).turns = s.turns := rfl
@[simp] theorem State.putW_replies (w : Vector Word 64) : (s.putW w).replies = s.replies := rfl
@[simp] theorem State.putW_digestSet (w : Vector Word 64) : (s.putW w).digestSet = s.digestSet := rfl
@[simp] theorem State.putW_draws (w : Vector Word 64) : (s.putW w).draws = s.draws := rfl

@[simp] theorem State.putDigest_hash (d : Vector Byte 32) : (s.putDigest d).hash = s.hash := rfl
@[simp] theorem State.putDigest_work (d : Vector Byte 32) : (s.putDigest d).work = s.work := rfl
@[simp] theorem State.putDigest_w (d : Vector Byte 32) : (s.putDigest d).w = s.w := rfl
@[simp] theorem State.putDigest_len (d : Vector Byte 32) : (s.putDigest d).len = s.len := rfl
@[simp] theorem State.putDigest_bitlen (d : Vector Byte 32) : (s.putDigest d).bitlen = s.bitlen := rfl
@[simp] theorem State.putDigest_nblk (d : Vector Byte 32) : (s.putDigest d).nblk = s.nblk := rfl
@[simp] theorem State.putDigest_blk (d : Vector Byte 32) : (s.putDigest d).blk = s.blk := rfl
@[simp] theorem State.putDigest_t (d : Vector Byte 32) : (s.putDigest d).t = s.t := rfl
@[simp] theorem State.putDigest_phase (d : Vector Byte 32) : (s.putDigest d).phase = s.phase := rfl
@[simp] theorem State.putDigest_fcode (d : Vector Byte 32) : (s.putDigest d).fcode = s.fcode := rfl
@[simp] theorem State.putDigest_digest (d : Vector Byte 32) : (s.putDigest d).digest = d := rfl
@[simp] theorem State.putDigest_msg (d : Vector Byte 32) : (s.putDigest d).msg = s.msg := rfl
@[simp] theorem State.putDigest_turns (d : Vector Byte 32) : (s.putDigest d).turns = s.turns := rfl
@[simp] theorem State.putDigest_replies (d : Vector Byte 32) : (s.putDigest d).replies = s.replies := rfl
@[simp] theorem State.putDigest_digestSet (d : Vector Byte 32) : (s.putDigest d).digestSet = true := rfl
@[simp] theorem State.putDigest_draws (d : Vector Byte 32) : (s.putDigest d).draws = s.draws := rfl

@[simp] theorem State.putMsg_hash (m : Memory) : (s.putMsg m).hash = s.hash := rfl
@[simp] theorem State.putMsg_work (m : Memory) : (s.putMsg m).work = s.work := rfl
@[simp] theorem State.putMsg_w (m : Memory) : (s.putMsg m).w = s.w := rfl
@[simp] theorem State.putMsg_len (m : Memory) : (s.putMsg m).len = s.len := rfl
@[simp] theorem State.putMsg_bitlen (m : Memory) : (s.putMsg m).bitlen = s.bitlen := rfl
@[simp] theorem State.putMsg_nblk (m : Memory) : (s.putMsg m).nblk = s.nblk := rfl
@[simp] theorem State.putMsg_blk (m : Memory) : (s.putMsg m).blk = s.blk := rfl
@[simp] theorem State.putMsg_t (m : Memory) : (s.putMsg m).t = s.t := rfl
@[simp] theorem State.putMsg_phase (m : Memory) : (s.putMsg m).phase = s.phase := rfl
@[simp] theorem State.putMsg_fcode (m : Memory) : (s.putMsg m).fcode = s.fcode := rfl
@[simp] theorem State.putMsg_digest (m : Memory) : (s.putMsg m).digest = s.digest := rfl
@[simp] theorem State.putMsg_msg (m : Memory) : (s.putMsg m).msg = m := rfl
@[simp] theorem State.putMsg_turns (m : Memory) : (s.putMsg m).turns = s.turns := rfl
@[simp] theorem State.putMsg_replies (m : Memory) : (s.putMsg m).replies = s.replies := rfl
@[simp] theorem State.putMsg_digestSet (m : Memory) : (s.putMsg m).digestSet = s.digestSet := rfl
@[simp] theorem State.putMsg_draws (m : Memory) : (s.putMsg m).draws = s.draws := rfl

@[simp] theorem State.putTurns_hash (ts : List Turn) : (s.putTurns ts).hash = s.hash := rfl
@[simp] theorem State.putTurns_work (ts : List Turn) : (s.putTurns ts).work = s.work := rfl
@[simp] theorem State.putTurns_w (ts : List Turn) : (s.putTurns ts).w = s.w := rfl
@[simp] theorem State.putTurns_len (ts : List Turn) : (s.putTurns ts).len = s.len := rfl
@[simp] theorem State.putTurns_bitlen (ts : List Turn) : (s.putTurns ts).bitlen = s.bitlen := rfl
@[simp] theorem State.putTurns_nblk (ts : List Turn) : (s.putTurns ts).nblk = s.nblk := rfl
@[simp] theorem State.putTurns_blk (ts : List Turn) : (s.putTurns ts).blk = s.blk := rfl
@[simp] theorem State.putTurns_t (ts : List Turn) : (s.putTurns ts).t = s.t := rfl
@[simp] theorem State.putTurns_phase (ts : List Turn) : (s.putTurns ts).phase = s.phase := rfl
@[simp] theorem State.putTurns_fcode (ts : List Turn) : (s.putTurns ts).fcode = s.fcode := rfl
@[simp] theorem State.putTurns_digest (ts : List Turn) : (s.putTurns ts).digest = s.digest := rfl
@[simp] theorem State.putTurns_msg (ts : List Turn) : (s.putTurns ts).msg = s.msg := rfl
@[simp] theorem State.putTurns_turns (ts : List Turn) : (s.putTurns ts).turns = ts := rfl
@[simp] theorem State.putTurns_replies (ts : List Turn) : (s.putTurns ts).replies = s.replies := rfl
@[simp] theorem State.putTurns_digestSet (ts : List Turn) : (s.putTurns ts).digestSet = s.digestSet := rfl
@[simp] theorem State.putTurns_draws (ts : List Turn) : (s.putTurns ts).draws = s.draws := rfl

@[simp] theorem State.putReply_hash (r : Reply) : (s.putReply r).hash = s.hash := rfl
@[simp] theorem State.putReply_work (r : Reply) : (s.putReply r).work = s.work := rfl
@[simp] theorem State.putReply_w (r : Reply) : (s.putReply r).w = s.w := rfl
@[simp] theorem State.putReply_len (r : Reply) : (s.putReply r).len = s.len := rfl
@[simp] theorem State.putReply_bitlen (r : Reply) : (s.putReply r).bitlen = s.bitlen := rfl
@[simp] theorem State.putReply_nblk (r : Reply) : (s.putReply r).nblk = s.nblk := rfl
@[simp] theorem State.putReply_blk (r : Reply) : (s.putReply r).blk = s.blk := rfl
@[simp] theorem State.putReply_t (r : Reply) : (s.putReply r).t = s.t := rfl
@[simp] theorem State.putReply_phase (r : Reply) : (s.putReply r).phase = s.phase := rfl
@[simp] theorem State.putReply_fcode (r : Reply) : (s.putReply r).fcode = s.fcode := rfl
@[simp] theorem State.putReply_digest (r : Reply) : (s.putReply r).digest = s.digest := rfl
@[simp] theorem State.putReply_msg (r : Reply) : (s.putReply r).msg = s.msg := rfl
@[simp] theorem State.putReply_turns (r : Reply) : (s.putReply r).turns = s.turns := rfl
@[simp] theorem State.putReply_replies (r : Reply) : (s.putReply r).replies = r :: s.replies := rfl
@[simp] theorem State.putReply_digestSet (r : Reply) : (s.putReply r).digestSet = s.digestSet := rfl
@[simp] theorem State.putReply_draws (r : Reply) : (s.putReply r).draws = s.draws := rfl

@[simp] theorem State.putDraw_hash : s.putDraw.hash = s.hash := rfl
@[simp] theorem State.putDraw_work : s.putDraw.work = s.work := rfl
@[simp] theorem State.putDraw_w : s.putDraw.w = s.w := rfl
@[simp] theorem State.putDraw_len : s.putDraw.len = s.len := rfl
@[simp] theorem State.putDraw_bitlen : s.putDraw.bitlen = s.bitlen := rfl
@[simp] theorem State.putDraw_nblk : s.putDraw.nblk = s.nblk := rfl
@[simp] theorem State.putDraw_blk : s.putDraw.blk = s.blk := rfl
@[simp] theorem State.putDraw_t : s.putDraw.t = s.t := rfl
@[simp] theorem State.putDraw_phase : s.putDraw.phase = s.phase := rfl
@[simp] theorem State.putDraw_fcode : s.putDraw.fcode = s.fcode := rfl
@[simp] theorem State.putDraw_digest : s.putDraw.digest = s.digest := rfl
@[simp] theorem State.putDraw_msg : s.putDraw.msg = s.msg := rfl
@[simp] theorem State.putDraw_turns : s.putDraw.turns = s.turns := rfl
@[simp] theorem State.putDraw_replies : s.putDraw.replies = s.replies := rfl
@[simp] theorem State.putDraw_digestSet : s.putDraw.digestSet = s.digestSet := rfl
@[simp] theorem State.putDraw_draws : s.putDraw.draws = s.draws + 1 := rfl

@[simp] theorem raiseFault_hash (f : HwFault) : (raiseFault f s).hash = s.hash := rfl
@[simp] theorem raiseFault_work (f : HwFault) : (raiseFault f s).work = s.work := rfl
@[simp] theorem raiseFault_w (f : HwFault) : (raiseFault f s).w = s.w := rfl
@[simp] theorem raiseFault_len (f : HwFault) : (raiseFault f s).len = s.len := rfl
@[simp] theorem raiseFault_bitlen (f : HwFault) : (raiseFault f s).bitlen = s.bitlen := rfl
@[simp] theorem raiseFault_nblk (f : HwFault) : (raiseFault f s).nblk = s.nblk := rfl
@[simp] theorem raiseFault_blk (f : HwFault) : (raiseFault f s).blk = s.blk := rfl
@[simp] theorem raiseFault_t (f : HwFault) : (raiseFault f s).t = s.t := rfl
@[simp] theorem raiseFault_phase (f : HwFault) : (raiseFault f s).phase = Phase.fault := rfl
@[simp] theorem raiseFault_fcode (f : HwFault) : (raiseFault f s).fcode = f.code := rfl
@[simp] theorem raiseFault_digest (f : HwFault) : (raiseFault f s).digest = s.digest := rfl
@[simp] theorem raiseFault_msg (f : HwFault) : (raiseFault f s).msg = s.msg := rfl
@[simp] theorem raiseFault_turns (f : HwFault) : (raiseFault f s).turns = s.turns := rfl
@[simp] theorem raiseFault_replies (f : HwFault) : (raiseFault f s).replies = s.replies := rfl
@[simp] theorem raiseFault_digestSet (f : HwFault) : (raiseFault f s).digestSet = s.digestSet := rfl
@[simp] theorem raiseFault_draws (f : HwFault) : (raiseFault f s).draws = s.draws := rfl

@[simp] theorem resetAction_phase : (resetAction s).phase = Phase.idle := rfl
@[simp] theorem resetAction_fcode : (resetAction s).fcode = 0 := rfl
@[simp] theorem resetAction_msg : (resetAction s).msg = s.msg := rfl
@[simp] theorem resetAction_turns : (resetAction s).turns = s.turns := rfl
@[simp] theorem resetAction_replies : (resetAction s).replies = s.replies := rfl
@[simp] theorem resetAction_digestSet : (resetAction s).digestSet = false := rfl
@[simp] theorem resetAction_draws : (resetAction s).draws = s.draws + 1 := rfl

end Sys2Proof.Machine
end

