-- ==== Sys2Proof/Laws/Ops.lean ====
section
/-! SUPPORT. One spec lemma for each shared operation: word functions, phases, the padded stream, the schedule registers, the counter. -/

namespace Sys2Proof.Machine

/-! ### Words -/

@[simp] theorem add32_two (x y : Word) : add32 [x, y] = x + y := by simp [add32]

@[simp] theorem add32_four (x y z u : Word) : add32 [x, y, z, u] = x + y + z + u := by simp [add32]

@[simp] theorem add32_five (x y z u v : Word) : add32 [x, y, z, u, v] = x + y + z + u + v := by simp [add32]

@[simp] theorem be32_length (x : Word) : (be32 x).length = 4 := rfl

@[simp] theorem be64_length (v : BitVec 64) : (be64 v).length = 8 := by simp [be64]

theorem be64_getD (v : BitVec 64) {k : Nat} (h : k < 8) : (be64 v).getD k 0 = lenByte v k := by
  simp [be64, List.getD, h]

/-! ### Phases -/

theorem busyPhase_iff (p : BitVec 4) : busyPhase p = true ↔ 1 ≤ p.toNat ∧ p.toNat ≤ 8 := by simp [busyPhase]

theorem startPhase_iff (p : BitVec 4) : startPhase p = true ↔ p = Phase.idle ∨ p = Phase.done := by simp [startPhase]

/-! ### The read port and the padded stream -/

theorem msgRead_ok (s : State) {j : Nat} (h : j < s.len.toNat) : msgRead s j = .ok (s.msg.read j) := by
  simp [msgRead, h]

/-- At and above PLEN, PadByte is not defined. -/
theorem padByte_above (s : State) {j : Nat} (h : s.plen ≤ j) : padByte s j = .error .padByteOutOfRange := by
  simp [padByte, h]

/-- MESSAGE. -/
theorem padByte_message (s : State) {j : Nat} (h : j < s.plen) (hj : j < s.len.toNat) :
    padByte s j = .ok (s.msg.read j) := by
  simp [padByte, msgRead, hj, Nat.not_le.2 h]

/-- MARK. -/
theorem padByte_mark (s : State) {j : Nat} (h : j < s.plen) (hj : j = s.len.toNat) : padByte s j = .ok 0x80 := by
  subst hj; simp [padByte, Nat.not_le.2 h]

/-- ZEROS. -/
theorem padByte_zeros (s : State) {j : Nat} (h : j < s.plen) (hj : s.len.toNat < j) (hz : j < s.plen - 8) :
    padByte s j = .ok 0x00 := by
  simp [padByte, Nat.not_le.2 h, Nat.not_lt.2 (Nat.le_of_lt hj), Nat.ne_of_gt hj, hz]

/-- LENGTH. -/
theorem padByte_length (s : State) {j : Nat} (h : j < s.plen) (hj : s.len.toNat < j) (hz : s.plen - 8 ≤ j) :
    padByte s j = .ok (lenByte s.bitlen (j - (s.plen - 8))) := by
  simp [padByte, Nat.not_le.2 h, Nat.not_lt.2 (Nat.le_of_lt hj), Nat.ne_of_gt hj, Nat.not_lt.2 hz]

/-- Below PLEN, PadByte has a value. -/
theorem padByte_ok (s : State) {j : Nat} (h : j < s.plen) : ∃ b, padByte s j = .ok b := by
  rcases Nat.lt_trichotomy j s.len.toNat with hj | hj | hj
  · exact ⟨_, padByte_message s h hj⟩
  · exact ⟨_, padByte_mark s h hj⟩
  · rcases Nat.lt_or_ge j (s.plen - 8) with hz | hz
    · exact ⟨_, padByte_zeros s h hj hz⟩
    · exact ⟨_, padByte_length s h hj hz⟩

/-- A word of a block from its four bytes. -/
theorem blockWord_ok (s : State) {i k : Nat} {b0 b1 b2 b3 : Byte} (h0 : padByte s (64 * i + 4 * k) = .ok b0)
    (h1 : padByte s (64 * i + 4 * k + 1) = .ok b1) (h2 : padByte s (64 * i + 4 * k + 2) = .ok b2)
    (h3 : padByte s (64 * i + 4 * k + 3) = .ok b3) : blockWord s i k = .ok (wordBe b0 b1 b2 b3) := by
  simp [blockWord, h0, h1, h2, h3]

/-- The first n words of a block, where each has a value. -/
theorem blockWords_ok (s : State) (i : Nat) (f : Nat → Word) {n : Nat} (h : ∀ k, k < n → blockWord s i k = .ok (f k)) :
    blockWords s i n = .ok ((List.range n).map f) := by
  induction n with
  | zero => rfl
  | succ n ih =>
    rw [blockWords, ih fun k hk => h k (by omega), h n (by omega), List.range_succ]
    simp

/-- Sixteen words, or a fault, and never another number. -/
theorem blockWords_length (s : State) (i : Nat) {n : Nat} {ws : List Word} (h : blockWords s i n = .ok ws) : ws.length = n := by
  induction n generalizing ws with
  | zero => cases h; rfl
  | succ n ih =>
    rw [blockWords] at h
    split at h <;> cases h
    rename_i hws _
    simp [ih hws]

/-- A block of the padded stream has all its words. -/
theorem blockWords_below (s : State) {i n : Nat} (h : i < s.nblk.toNat) (hn : n ≤ 16) : ∃ ws, blockWords s i n = .ok ws := by
  have hword : ∀ k, k < n → ∃ x, blockWord s i k = .ok x := by
    intro k hk
    have hb : ∀ j, j < 64 → ∃ b, padByte s (64 * i + j) = .ok b := fun j hj =>
      padByte_ok s (by simp only [State.plen]; omega)
    obtain ⟨b0, h0⟩ := hb (4 * k) (by omega)
    obtain ⟨b1, h1⟩ := hb (4 * k + 1) (by omega)
    obtain ⟨b2, h2⟩ := hb (4 * k + 2) (by omega)
    obtain ⟨b3, h3⟩ := hb (4 * k + 3) (by omega)
    exact ⟨_, blockWord_ok s h0 h1 h2 h3⟩
  choose f hf using hword
  exact ⟨_, blockWords_ok s i (fun k => if h : k < n then f k h else 0) fun k hk => by simp [hk, hf]⟩

/-- Above the padded stream there is no word. -/
theorem blockWords_above (s : State) {i : Nat} (h : s.nblk.toNat ≤ i) (n : Nat) :
    blockWords s i (n + 1) = .error .padByteOutOfRange := by
  have hword : ∀ k, blockWord s i k = .error .padByteOutOfRange := by
    intro k
    rw [blockWord, padByte_above s (by simp only [State.plen]; omega), padByte_above s (by simp only [State.plen]; omega)]
  induction n with
  | zero => rw [blockWords, hword]; rfl
  | succ n ih => rw [blockWords, ih]

/-! ### The schedule registers -/

theorem schedRead_eq (w : Vector Word 64) (t : BitVec 6) (i : Fin 64) (h : i.val = t.toNat) : schedRead w t = w[i] := by
  simp [schedRead, h]

@[simp] theorem schedWrite_same (w : Vector Word 64) (t : BitVec 6) (x : Word) : schedRead (schedWrite w t x) t = x := by
  simp [schedRead, schedWrite]

theorem schedWrite_getElem (w : Vector Word 64) (t : BitVec 6) (x : Word) (k : Fin 64) :
    (schedWrite w t x)[k] = if k.val = t.toNat then x else w[k] := by
  simp only [schedWrite, Fin.getElem_fin, Vector.getElem_set]
  split <;> split <;> simp_all

theorem schedLoad_getElem (w : Vector Word 64) (ws : List Word) (k : Fin 64) :
    (schedLoad w ws)[k] = if k.val < ws.length then ws.getD k.val 0 else w[k] := by
  simp only [schedLoad, Fin.getElem_fin, Vector.getElem_ofFn]
  split
  · rename_i h; simp [List.getD, List.getElem?_eq_getElem h]
  · rename_i h; simp [List.getElem?_eq_none (Nat.le_of_not_lt h)]

/-! ### The counter T -/

/-- The two ends of EXPAND and ROUND. -/
theorem countOr_cases (next : BitVec 4) (s : State) :
    (s.t.toNat = 63 ∧ countOr next s = s.putPhase next) ∨
    (s.t.toNat < 63 ∧ countOr next s = s.putT (s.t + 1) ∧ (s.t + 1).toNat = s.t.toNat + 1) := by
  have hlt := s.t.isLt
  by_cases h : s.t = 63
  · left; exact ⟨by rw [h]; rfl, by rw [countOr, if_pos h]⟩
  · right
    have h' : s.t.toNat ≠ 63 := fun e => h (BitVec.eq_of_toNat_eq (by simpa using e))
    refine ⟨by omega, by rw [countOr, if_neg h], ?_⟩
    rw [BitVec.toNat_add]
    simp
    omega

/-! ### Counters that fit -/

theorem blockCount_bound {len : Nat} (h : len ≤ Config.maxLen) : blockCount len ≤ 2 ^ 55 + 1 := by
  simp only [Config.maxLen] at h; simp only [blockCount]; omega

theorem bitlenOf_toNat {len : BitVec 64} (h : len.toNat ≤ Config.maxLen) : (bitlenOf len).toNat = 8 * len.toNat := by
  simp only [Config.maxLen] at h
  have : 8 * len.toNat < 2 ^ 64 := by omega
  rw [bitlenOf, if_pos this, BitVec.toNat_ofNat, Nat.mod_eq_of_lt this]

theorem nblkOf_toNat {len : BitVec 64} (h : len.toNat ≤ Config.maxLen) : (nblkOf len).toNat = blockCount len.toNat := by
  have hb := blockCount_bound h
  have : blockCount len.toNat < 2 ^ 56 := by omega
  rw [nblkOf, if_pos this, BitVec.toNat_ofNat, Nat.mod_eq_of_lt this]

theorem nextBlk_toNat {blk nblk : BitVec 56} (h : blk.toNat < nblk.toNat) : (nextBlk blk nblk).toNat = blk.toNat + 1 := by
  have := nblk.isLt
  have : blk.toNat + 1 < 2 ^ 56 := by omega
  rw [nextBlk, if_pos this, BitVec.toNat_add]
  simp
  omega

/-- Up to MAX_LEN the length field of Pad is the bit length, exactly. -/
theorem padBits_toNat {len : Nat} (h : len ≤ Config.maxLen) : (padBits len).toNat = 8 * len := by
  have : 8 * len < 2 ^ 64 := by simp [Config.maxLen] at h; omega
  rw [padBits, if_pos this, BitVec.toNat_ofNat, Nat.mod_eq_of_lt this]

/-- PLEN = 64 * NBLK (R122). -/
theorem paddedLength_eq (len : Nat) : paddedLength len = 64 * blockCount len := by
  simp only [paddedLength, zeroCount, blockCount]; omega

theorem padMessage_length (msg : List Byte) : (padMessage msg).length = 64 * blockCount msg.length := by
  rw [← paddedLength_eq]; simp [padMessage, paddedLength]; omega

end Sys2Proof.Machine
end

