-- ==== Sys2Proof/Laws/Exec.lean ====
section
/-! SUPPORT. What a step can do, said once: an inversion lemma for the meanings that have more than one outcome, for exec, for the moves
of the host, and for the step. -/

namespace Sys2Proof.Machine

/-- exec's arm of LOADBLK. Rewrite with it, so that no later step has to compare LOADBLK's sixteen words by unfolding. -/
theorem exec_loadblk (s : State) : exec .loadblk s = execLoadblk s := rfl

/-- The frame of LOADBLK's update, over any words, so that no proof compares its sixteen words by unfolding. -/
theorem State.loaded_eq (s : State) (w : Vector Word 64) (t : BitVec 6) (p : BitVec 4) :
    ((s.putW w).putT t).putPhase p =
      { s with
        w := (((s.putW w).putT t).putPhase p).w
        t := (((s.putW w).putT t).putPhase p).t
        phase := (((s.putW w).putT t).putPhase p).phase } := rfl

/-- LOADBLK: its sixteen words, or the fault that the first missing one raises. -/
theorem execLoadblk_next {s t : State} (h : execLoadblk s = .next t) :
    ∃ ws, blockWords s s.blk.toNat 16 = .ok ws ∧ ws.length = 16 ∧
      t = ((s.putW (schedLoad s.w ws)).putT 16).putPhase Phase.expand := by
  rw [execLoadblk] at h
  generalize hws : blockWords s s.blk.toNat 16 = r at h
  cases r with
  | error f => cases h
  | ok ws => injection h with h; exact ⟨ws, rfl, blockWords_length s _ hws, h.symm⟩

/-- LOADBLK where its sixteen words have values. -/
theorem execLoadblk_ok {s : State} {ws : List Word} (h : blockWords s s.blk.toNat 16 = .ok ws) :
    execLoadblk s = .next (((s.putW (schedLoad s.w ws)).putT 16).putPhase Phase.expand) := by
  rw [execLoadblk, h, Except.map, outcomeOf]

/-- LOADBLK where a word has no value. -/
theorem execLoadblk_error {s : State} {f : Fault} (h : blockWords s s.blk.toNat 16 = .error f) : execLoadblk s = .fault f := by
  rw [execLoadblk, h, Except.map, outcomeOf]

/-- EXPAND goes on only at 16 <= T. -/
theorem execExpand_next {s t : State} (h : execExpand s = .next t) :
    16 ≤ s.t.toNat ∧ t = countOr Phase.initwr (s.putW (schedWrite s.w s.t (expandWord s.w s.t))) := by
  rw [execExpand] at h
  split at h
  · rename_i hle; cases h; exact ⟨hle, rfl⟩
  · cases h

/-- FEEDFWD always goes on: the last block, or another. -/
theorem execFeedfwd_cases (s : State) :
    (s.blk.toNat + 1 = s.nblk.toNat ∧
      execFeedfwd s = .next ((s.putHash (feedForward s.hash s.work)).putPhase Phase.ser)) ∨
    (s.blk.toNat + 1 ≠ s.nblk.toNat ∧
      execFeedfwd s =
        .next (((s.putHash (feedForward s.hash s.work)).putBlk (nextBlk s.blk s.nblk)).putPhase Phase.load)) := by
  by_cases h : s.blk.toNat + 1 = s.nblk.toNat
  · exact .inl ⟨h, by simp [execFeedfwd, h]⟩
  · exact .inr ⟨h, by simp [execFeedfwd, h]⟩

/-- START: accepted, faulted, or not accepted. -/
theorem execStart_cases (len : Nat) (s : State) :
    ((s.phase = Phase.idle ∨ s.phase = Phase.done) ∧ len ≤ Config.maxLen ∧
      execStart len s = .next ((s.putLen (BitVec.ofNat 64 len)).putPhase Phase.pad)) ∨
    ((s.phase = Phase.idle ∨ s.phase = Phase.done) ∧ Config.maxLen < len ∧
      execStart len s = .next (raiseFault .lenOverflow s)) ∨
    (s.phase ≠ Phase.idle ∧ s.phase ≠ Phase.done ∧ execStart len s = .refused .startNotAccepted) := by
  by_cases hp : s.phase = Phase.idle ∨ s.phase = Phase.done
  · have hs := (startPhase_iff s.phase).2 hp
    rcases Nat.lt_or_ge Config.maxLen len with hl | hl
    · exact .inr (.inl ⟨hp, hl, by simp [execStart, hs, hl]⟩)
    · exact .inl ⟨hp, hl, by simp [execStart, hs, Nat.not_lt.2 hl]⟩
  · have hs : startPhase s.phase = false := by
      rw [Bool.eq_false_iff]; exact fun e => hp ((startPhase_iff s.phase).1 e)
    exact .inr (.inr ⟨fun e => hp (.inl e), fun e => hp (.inr e), by simp [execStart, hs]⟩)

/-- A host write to MSG is refused on a running message, and is a memory write elsewhere. -/
theorem writeMsg_cases (j : BitVec 61) (b : Byte) (s : State) :
    (busyPhase s.phase = true ∧ j.toNat < s.len.toNat ∧ writeMsg j b s = .refused .messageHeld) ∨
    (¬ (busyPhase s.phase = true ∧ j.toNat < s.len.toNat) ∧ writeMsg j b s = .next (s.putMsg (s.msg.write j.toNat b))) := by
  by_cases h : busyPhase s.phase = true ∧ j.toNat < s.len.toNat
  · exact .inl ⟨h.1, h.2, by simp [writeMsg, h.1, h.2]⟩
  · refine .inr ⟨h, ?_⟩
    rw [writeMsg, if_neg]
    simpa using h

/-- The engine runs the operation PHASE names. -/
theorem engineStep_of_decode {s : State} {i : Instr} (h : decode (.op s.phase) = .ok i) : engineStep s = exec i s := by
  simp [engineStep, runCode, h]

/-- A state whose codes are not reserved is not refused for them. -/
theorem reservedCode_none {s : State} (hp : s.phase.toNat ≤ 9 ∨ s.phase = Phase.fault) (hf : s.fcode ≠ 3) : s.reservedCode = none := by
  have : ¬ (0xA ≤ s.phase.toNat ∧ s.phase.toNat ≤ 0xE) := by
    rcases hp with h | h
    · omega
    · rw [h]; decide
  rw [State.reservedCode, if_neg this, if_neg hf]

/-- Where a state is refused for a code, that code is reserved. -/
theorem reservedCode_some {s : State} {r : Refusal} (h : s.reservedCode = some r) :
    (0xA ≤ s.phase.toNat ∧ s.phase.toNat ≤ 0xE ∧ r = .reservedPhase s.phase) ∨ (s.fcode = 3 ∧ r = .reservedFcode 3) := by
  rw [State.reservedCode] at h
  split_ifs at h with hp hf
  · cases h; exact .inl ⟨hp.1, hp.2, rfl⟩
  · cases h; exact .inr ⟨hf, by rw [hf]⟩

/-- Every move but reset is refused in a state with a reserved code. -/
theorem stuck_eq {s : State} (h : ∀ c rest, s.turns ≠ .reset c :: rest) : s.stuck = s.reservedCode := by
  rw [State.stuck]
  split
  · rename_i c rest e; exact absurd e (h c rest)
  · rfl

/-- A state without a reserved code is not stuck. -/
theorem stuck_none {s : State} (h : s.reservedCode = none) : s.stuck = none := by
  rw [State.stuck, h]; split <;> rfl

/-- No state is stuck at a reset. -/
theorem stuck_reset {s : State} {c : Option Instr} {rest : List Turn} (h : s.turns = .reset c :: rest) : s.stuck = none := by
  rw [State.stuck, h]

/-- The step of a state that is stuck. -/
theorem step_stuck {s : State} {r : Refusal} (h : s.stuck = some r) : step s = .refused r := by rw [step, advance, h]

/-- The step of a state that is not stuck. -/
theorem step_free {s : State} (h : s.stuck = none) : step s = nextMove s := by rw [step, advance, h]

/-- A step that goes on is the next move of a state that is not stuck. -/
theorem step_next_free {s t : State} (h : step s = .next t) : s.stuck = none ∧ nextMove s = .next t := by
  rw [step, advance] at h
  cases hs : s.stuck with
  | none => rw [hs] at h; exact ⟨rfl, h⟩
  | some r => rw [hs] at h; cases h

/-- The step when no move is scripted. -/
theorem step_engine {s : State} (hs : s.stuck = none) (h : s.turns = []) : step s = engineStep s := by
  rw [step_free hs, nextMove, h]

/-- The step when a move is scripted. -/
theorem step_turn {s : State} {m : Turn} {rest : List Turn} (hs : s.stuck = none) (h : s.turns = m :: rest) :
    step s = turnStep m (s.putTurns rest) := by
  rw [step_free hs, nextMove, h]

/-- The step when a reset is scripted, in any state. -/
theorem step_reset {s : State} {c : Option Instr} {rest : List Turn} (h : s.turns = .reset c :: rest) :
    step s = .next (resetAction (s.putTurns rest)) := step_turn (stuck_reset h) h

/-- A code that runs to a next state decodes to an instruction. -/
theorem runCode_next {c : Code} {s t : State} (h : runCode c s = .next t) : ∃ i, decode c = .ok i ∧ exec i s = .next t := by
  rw [runCode] at h
  split at h
  · rename_i i hi; exact ⟨i, hi, h⟩
  · cases h

/-- What a step that answers a next state can have done. -/
theorem step_cases {s t : State} (h : step s = .next t) :
    (∃ i, s.turns = [] ∧ decode (.op s.phase) = .ok i ∧ exec i s = .next t) ∨
    (∃ i rest, s.turns = .engine :: rest ∧ decode (.op s.phase) = .ok i ∧ exec i (s.putTurns rest) = .next t) ∨
    (∃ i c l rest, s.turns = .command c l :: rest ∧ decode (.cmd c l) = .ok i ∧ exec i (s.putTurns rest) = .next t) ∨
    (∃ rest, s.turns = .readStatus :: rest ∧ t = readStatus (s.putTurns rest)) ∨
    (∃ rest, s.turns = .readDigest :: rest ∧ t = readDigest (s.putTurns rest)) ∨
    (∃ v rest, s.turns = .writeStatus v :: rest ∧ t = s.putTurns rest) ∨
    (∃ c rest, s.turns = .reset c :: rest ∧ t = resetAction (s.putTurns rest)) ∨
    (∃ j b rest, s.turns = .writeMsg j b :: rest ∧ ¬ (busyPhase s.phase = true ∧ j.toNat < s.len.toNat) ∧
      t = (s.putTurns rest).putMsg (s.msg.write j.toNat b)) := by
  have hs := (step_next_free h).1
  rcases hts : s.turns with _ | ⟨m, rest⟩
  · rw [step_engine hs hts] at h
    obtain ⟨i, hi, ht⟩ := runCode_next h
    exact .inl ⟨i, rfl, hi, ht⟩
  · rw [step_turn hs hts] at h
    cases m with
    | engine =>
      obtain ⟨i, hi, ht⟩ := runCode_next h
      exact .inr (.inl ⟨i, rest, rfl, hi, ht⟩)
    | command c l =>
      obtain ⟨i, hi, ht⟩ := runCode_next h
      exact .inr (.inr (.inl ⟨i, c, l, rest, rfl, hi, ht⟩))
    | readStatus => cases h; exact .inr (.inr (.inr (.inl ⟨rest, rfl, rfl⟩)))
    | readDigest => cases h; exact .inr (.inr (.inr (.inr (.inl ⟨rest, rfl, rfl⟩))))
    | writeStatus v => cases h; exact .inr (.inr (.inr (.inr (.inr (.inl ⟨v, rest, rfl, rfl⟩)))))
    | reset c => cases h; exact .inr (.inr (.inr (.inr (.inr (.inr (.inl ⟨c, rest, rfl, rfl⟩))))))
    | writeMsg j b =>
      refine .inr (.inr (.inr (.inr (.inr (.inr (.inr ⟨j, b, rest, rfl, ?_⟩))))))
      rw [turnStep] at h
      rcases writeMsg_cases j b (s.putTurns rest) with ⟨_, _, e⟩ | ⟨hn, e⟩
      · rw [e] at h; cases h
      · rw [e] at h; cases h; exact ⟨hn, rfl⟩

/-- Running one more step at the end of a run. -/
theorem run_add {M : Host.Core} {s t : M.State} (m n : Nat) (h : M.run m s = .next t) : M.run (m + n) s = M.run n t := by
  induction m generalizing s with
  | zero => cases h; rw [Nat.zero_add]
  | succ m ih =>
    rw [Nat.add_right_comm]
    rw [Host.Core.run] at h ⊢
    cases hs : M.step s with
    | next s' => rw [hs] at h; exact ih h
    | fault f => rw [hs] at h; cases h
    | refused r => rw [hs] at h; cases h

/-- A run of n + 1 steps that begins with a given step. -/
theorem run_succ {M : Host.Core} {s s' : M.State} (n : Nat) (h : M.step s = .next s') : M.run (n + 1) s = M.run n s' := by
  rw [Host.Core.run, h]

/-- The first step of a run of n + 1 steps. -/
theorem run_succ_inv {M : Host.Core} {s t : M.State} {n : Nat} (h : M.run (n + 1) s = .next t) :
    ∃ s', M.step s = .next s' ∧ M.run n s' = .next t := by
  rw [Host.Core.run] at h
  cases hs : M.step s with
  | next s' => rw [hs] at h; exact ⟨s', rfl, h⟩
  | fault f => rw [hs] at h; cases h
  | refused r => rw [hs] at h; cases h

end Sys2Proof.Machine
end

