-- ==== Sys2Proof/Laws/PerInstr.lean ====
section
/-! SUPPORT. Statements made for each instruction as syntax. Family RoundTrip: decoding an instruction's code gives the instruction. -/

namespace Sys2Proof.Laws.RoundTrip

/-- A well-formed instruction's code decodes to it (30_encoding.md R80, R81, R84). -/
def Statement (i : Instr) : Prop := i.wf = true → decode (encode i) = .ok i

theorem waitIdle : Statement .waitIdle := fun _ => rfl
theorem pad : Statement .pad := fun _ => rfl
theorem inith : Statement .inith := fun _ => rfl
theorem loadblk : Statement .loadblk := fun _ => rfl
theorem expand : Statement .expand := fun _ => rfl
theorem initwr : Statement .initwr := fun _ => rfl
theorem round : Statement .round := fun _ => rfl
theorem feedfwd : Statement .feedfwd := fun _ => rfl
theorem serialize : Statement .serialize := fun _ => rfl
theorem waitDone : Statement .waitDone := fun _ => rfl
theorem waitFault : Statement .waitFault := fun _ => rfl
theorem nocmd : Statement .nocmd := fun _ => rfl

/-- START's length survives its 64-bit port because it is below 2^64. -/
theorem start (len : Nat) : Statement (.start len) := by
  intro h
  have hl : len < 2 ^ 64 := of_decide_eq_true h
  have hn : (BitVec.ofNat 64 len).toNat = len := by rw [BitVec.toNat_ofNat, Nat.mod_eq_of_lt hl]
  show Except.ok (Instr.start (BitVec.ofNat 64 len).toNat) = _
  rw [hn]

end Sys2Proof.Laws.RoundTrip
end

