-- ==== Sys2Proof/Laws/Safety.lean ====
section
/-! SUPPORT. The small lemmas of legal codes, of the moves that leave a running transaction alone, and of the host's writes in a script. -/

namespace Sys2Proof.Machine

/-- A state with legal codes is not stuck. -/
theorem State.CodesLegal.stuck_none {s : State} (h : s.CodesLegal) : s.stuck = none :=
  Machine.stuck_none (reservedCode_none h.phase_legal h.fcode_legal)

/-- The codes of a legal state are legal. -/
theorem State.Inv.codesLegal {s : State} (h : s.Inv) : s.CodesLegal :=
  ⟨h.phase_legal, by rcases h.fcode_legal with e | e <;> rw [e] <;> decide⟩

@[simp] theorem hostWrites_nil (m : Memory) : hostWrites [] m = m := rfl

@[simp] theorem hostWrites_writeMsg (j : BitVec 61) (b : Byte) (ts : List Turn) (m : Memory) :
    hostWrites (.writeMsg j b :: ts) m = hostWrites ts (m.write j.toNat b) := rfl

/-- Only a write to MSG changes the message memory. -/
theorem hostWrites_other {x : Turn} (h : ∀ j b, x ≠ .writeMsg j b) (ts : List Turn) (m : Memory) :
    hostWrites (x :: ts) m = hostWrites ts m := by
  cases x with
  | writeMsg j b => exact absurd rfl (h j b)
  | engine => rfl
  | command c l => rfl
  | readStatus => rfl
  | readDigest => rfl
  | writeStatus v => rfl
  | reset c => rfl

@[simp] theorem dutifulTurn_writeMsg (len : BitVec 64) (j : BitVec 61) (b : Byte) :
    dutifulTurn len (.writeMsg j b) = decide (len.toNat ≤ j.toNat) := rfl

/-- The writes of a host that keeps its duty leave every byte below LEN as it was. -/
theorem hostWrites_read_below {len : BitVec 64} {ts : List Turn} (h : ∀ x ∈ ts, x = .engine ∨ dutifulTurn len x = true)
    (m : Memory) {a : Nat} (ha : a < len.toNat) : (hostWrites ts m).read a = m.read a := by
  induction ts generalizing m with
  | nil => rfl
  | cons x ts ih =>
    have ih := ih fun y hy => h y (List.mem_cons_of_mem x hy)
    by_cases hx : ∃ j b, x = .writeMsg j b
    · obtain ⟨j, b, rfl⟩ := hx
      have hj : len.toNat ≤ j.toNat := by simpa using h _ List.mem_cons_self
      rw [hostWrites_writeMsg, ih, Memory.read_write_ne m b (by omega)]
    · rw [hostWrites_other (fun j b e => hx ⟨j, b, e⟩), ih]

/-- So the message stays. -/
theorem hostWrites_message {len : BitVec 64} {ts : List Turn} (h : ∀ x ∈ ts, x = .engine ∨ dutifulTurn len x = true) (m : Memory) :
    (hostWrites ts m).message len.toNat = m.message len.toNat :=
  List.map_congr_left fun _ ha => hostWrites_read_below h m (List.mem_range.1 ha)

end Sys2Proof.Machine
end

