-- ==== Sys2Proof/Tests/Slice0.lean ====
section
/-! SUPPORT. Tests: codes written out from 30_encoding.md, one operation at a time against the examples of spec/ (the rule or the vector
of 95_test_vectors.md is named at each), the check of ill-formed terms, and a witness for the hypotheses of each statement. -/

namespace Sys2Proof.Tests

open Sys2Proof Sys2Proof.Machine

/-! ### Helpers -/

/-- The state an operation went on to, or the reset state. -/
def after (o : Host.Outcome State Fault Refusal) : State :=
  match o with
  | .next t => t
  | .fault _ => State.reset
  | .refused _ => State.reset

/-- Whether the outcome is a next state. -/
def goesOn (o : Host.Outcome State Fault Refusal) : Bool :=
  match o with
  | .next _ => true
  | .fault _ => false
  | .refused _ => false

/-- An outcome that goes on is the next state it goes on to. -/
theorem eq_next_after {o : Host.Outcome State Fault Refusal} (h : goesOn o = true) : o = .next (after o) := by
  cases o with
  | next t => rfl
  | fault f => cases h
  | refused r => cases h

/-- "abc" (spec S2). -/
def abc : Memory := [(0, 0x61), (1, 0x62), (2, 0x63)]

/-- A state in a given phase, index and block, whose BITLEN and NBLK are those of a message of 3 bytes in NBLK = 1 block. -/
def abcAt (phase : BitVec 4) (t : BitVec 6) : State :=
  { State.reset with phase := phase, t := t, len := 3, bitlen := 24, nblk := 1, msg := abc }

/-- The same with a message of 64 zero bytes, in 2 blocks. -/
def twoAt (phase : BitVec 4) (t : BitVec 6) (blk : BitVec 56) : State :=
  { State.reset with phase := phase, t := t, blk := blk, len := 64, bitlen := 512, nblk := 2 }

/-- A state with one scripted move. -/
def withTurn (s : State) (m : Turn) : State := { s with turns := [m] }

/-- Eight words as a register file. -/
def words (a b c d e f g h : Word) : Vector Word 8 := ⟨[a, b, c, d, e, f, g, h].toArray, rfl⟩

/-! ### Well-formedness -/

theorem test_wf_start_65_bits : (Instr.start (2 ^ 64)).wf = false := by decide
theorem test_wf_start_64_bits : (Instr.start (2 ^ 64 - 1)).wf = true := by decide

/-! ### Codes (R80, R81, R85) -/

theorem test_decode_waitIdle : decode (.op 0b0000) = .ok .waitIdle := by decide
theorem test_decode_pad : decode (.op 0b0001) = .ok .pad := by decide
theorem test_decode_inith : decode (.op 0b0010) = .ok .inith := by decide
theorem test_decode_loadblk : decode (.op 0b0011) = .ok .loadblk := by decide
theorem test_decode_expand : decode (.op 0b0100) = .ok .expand := by decide
theorem test_decode_initwr : decode (.op 0b0101) = .ok .initwr := by decide
theorem test_decode_round : decode (.op 0b0110) = .ok .round := by decide
theorem test_decode_feedfwd : decode (.op 0b0111) = .ok .feedfwd := by decide
theorem test_decode_serialize : decode (.op 0b1000) = .ok .serialize := by decide
theorem test_decode_waitDone : decode (.op 0b1001) = .ok .waitDone := by decide
theorem test_decode_waitFault : decode (.op 0b1111) = .ok .waitFault := by decide
theorem test_decode_reserved_op : decode (.op 0b1010) = .error (.reservedOp 0b1010) := by decide
theorem test_decode_nocmd : decode (.cmd 0b00 7) = .ok .nocmd := by decide
theorem test_decode_start : decode (.cmd 0b01 (2 ^ 61)) = .ok (.start (2 ^ 61)) := by decide +kernel
theorem test_decode_reserved_cmd : decode (.cmd 0b11 7) = .error (.reservedCmd 0b11) := by decide

/-! ### Word functions (V1, and the examples of R100 to R108) -/

theorem test_add32 : add32 [0x6a09e667, 0xfc08884d] = 0x66126eb4 := by decide
theorem test_add32_three : add32 [0xf0f0f0f0, 0xcccccccc, 0xaaaaaaaa] = 0x68686866 := by decide
theorem test_rotr : rotr 0x12345678 7 = 0xf02468ac ∧ rotr 0x80000001 31 = 0x00000003 := by decide
theorem test_shr : shr 0x12345678 3 = 0x02468acf ∧ shr 0x80000000 10 = 0x00200000 := by decide
theorem test_ch : ch 0xf0f0f0f0 0xaaaaaaaa 0x55555555 = 0xa5a5a5a5 := by decide
theorem test_maj : maj 0xf0f0f0f0 0xcccccccc 0xaaaaaaaa = 0xe8e8e8e8 := by decide
theorem test_bsig : bsig0 0x12345678 = 0x66146474 ∧ bsig1 0x12345678 = 0x3561abda := by decide
theorem test_ssig : ssig0 0x12345678 = 0xe7fce6ee ∧ ssig1 0x12345678 = 0xa1f78649 := by decide

/-! ### The contracts (V2, V7) -/

theorem test_geometry : zeroCount 55 = 0 ∧ zeroCount 56 = 63 ∧ paddedLength 56 = 128 ∧ blockCount 119 = 2 ∧ blockCount 120 = 3 ∧
    blockCount 2305843009213693951 = 36028797018963969 := by decide
/-- S3: the padded empty message. -/
theorem test_pad_empty : padMessage [] = 0x80 :: List.replicate 63 0x00 := by decide
/-- S2: the known answer for "abc". -/
theorem test_digest_abc : (digestOf [0x61, 0x62, 0x63]).toOption.map (·.take 8) =
    some [0xba, 0x78, 0x16, 0xbf, 0x8f, 0x01, 0xcf, 0xea] := by decide +kernel

/-! ### One operation at a time -/

/-- R120: LEN = 3 gives BITLEN = 0x18, NBLK = 1. -/
theorem test_pad : (after (exec .pad (abcAt 1 0))).bitlen = 0x18 ∧ (after (exec .pad (abcAt 1 0))).nblk = 1 := by decide
/-- V2, last row: LEN = MAX_LEN. -/
theorem test_pad_max : (after (exec .pad { State.reset with len := 0x1fffffffffffffff })).bitlen = 0xfffffffffffffff8 ∧
    (after (exec .pad { State.reset with len := 0x1fffffffffffffff })).nblk = 36028797018963969 := by decide
/-- R182. -/
theorem test_inith : (after (exec .inith (twoAt 2 9 1))).hash[7] = 0x5be0cd19 ∧ (after (exec .inith (twoAt 2 9 1))).blk = 0 := by decide
/-- R132: W[0], W[14], W[15] of "abc". -/
theorem test_loadblk : let t := after (exec .loadblk (abcAt 3 0))
    t.w[0] = 0x61626380 ∧ t.w[14] = 0 ∧ t.w[15] = 0x18 ∧ t.t = 16 ∧ t.phase = 4 := by decide +kernel
/-- U10: block 1 of a message of one block. -/
theorem test_loadblk_beyond : exec .loadblk { abcAt 3 0 with blk := 1 } = .fault .padByteOutOfRange :=
  execLoadblk_error (by decide +kernel)
/-- R141: W[17] of "abc" is SSIG1(0x18). -/
theorem test_expand : let t := after (exec .expand { abcAt 4 17 with w := (Vector.replicate 64 0).set 15 0x18 })
    t.w[17] = 0x000f0000 ∧ t.w[15] = 0x18 ∧ t.t = 18 ∧ t.phase = 4 := by decide +kernel
/-- R141: the end of the schedule. -/
theorem test_expand_last : (after (exec .expand (abcAt 4 63))).phase = 5 ∧ (after (exec .expand (abcAt 4 63))).t = 63 := by
  decide +kernel
/-- R150: a..h from H, in order. -/
theorem test_initwr : (after (exec .initwr { abcAt 5 63 with hash := iv })).work =
    ⟨0x6a09e667, 0xbb67ae85, 0x3c6ef372, 0xa54ff53a, 0x510e527f, 0x9b05688c, 0x1f83d9ab, 0x5be0cd19⟩ := by decide
/-- R151: ROUND.0 of "abc". -/
theorem test_round : (after (exec .round { abcAt 6 0 with
      work := Work.ofVector iv, w := (Vector.replicate 64 0).set 0 0x61626380 })).work =
    ⟨0x5d6aebcd, 0x6a09e667, 0xbb67ae85, 0x3c6ef372, 0xfa2a4622, 0x510e527f, 0x9b05688c, 0x1f83d9ab⟩ := by decide +kernel
/-- R151: the last round. -/
theorem test_round_last : (after (exec .round (abcAt 6 63))).phase = 7 ∧ (after (exec .round (abcAt 6 62))).t = 63 := by
  decide +kernel
/-- R153: the feed-forward of "abc", onto the IV. -/
theorem test_feedfwd : let t := after (exec .feedfwd { abcAt 7 63 with
      hash := iv, work := ⟨0x506e3058, 0xd39a2165, 0x04d24d6c, 0xb85e2ce9, 0x5ef50f24, 0xfb121210, 0x948d25b6, 0x961f4894⟩ })
    t.hash = words 0xba7816bf 0x8f01cfea 0x414140de 0x5dae2223 0xb00361a3 0x96177a9c 0xb410ff61 0xf20015ad ∧ t.phase = 8 := by
  decide +kernel
/-- R153: another block follows. -/
theorem test_feedfwd_more : (after (exec .feedfwd (twoAt 7 63 0))).phase = 3 ∧ (after (exec .feedfwd (twoAt 7 63 0))).blk = 1 := by
  decide +kernel
/-- R171: H = ba7816bf ... gives DIGEST = ba 78 16 bf .... -/
theorem test_serialize : let t := after (exec .serialize { abcAt 8 63 with hash := words 0xba7816bf 0 0 0 0 0 0 0xf20015ad })
    t.digest[0] = 0xba ∧ t.digest[3] = 0xbf ∧ t.digest[28] = 0xf2 ∧ t.digest[31] = 0xad ∧ t.phase = 9 := by decide +kernel
/-- R185: quiescent. -/
theorem test_wait : step (abcAt 9 0) = .next (abcAt 9 0) ∧ step (abcAt 0xF 0) = .next (abcAt 0xF 0) ∧
    step State.reset = .next State.reset := ⟨rfl, rfl, rfl⟩
/-- R181. -/
theorem test_nocmd : step (withTurn (abcAt 6 3) (.command 0b00 9)) = .next (abcAt 6 3) := rfl
/-- R85, U4: no move but reset in a state with a reserved code. -/
theorem test_stuck : step (withTurn (abcAt 0xB 0) (.command 0b00 9)) = .refused (.reservedPhase 0xB) ∧
    step (withTurn { abcAt 9 0 with fcode := 3 } .readStatus) = .refused (.reservedFcode 3) ∧
    (after (step (withTurn { abcAt 0xB 0 with fcode := 3 } (.reset none)))).status = 0x00 := ⟨rfl, rfl, by decide⟩
/-- R180: START L=3 in IDLE. -/
theorem test_start : (after (exec (.start 3) State.reset)).len = 3 ∧ (after (exec (.start 3) State.reset)).phase = 1 := by decide
/-- R201: L = 2^61 faults, LEN not written, STATUS 0x1F (R183). -/
theorem test_start_overflow : let t := after (exec (.start (2 ^ 61)) (abcAt 9 0)); t.len = 3 ∧ t.status = 0x1F := by decide
/-- R183: the statuses of the examples. -/
theorem test_status : State.reset.status = 0x00 ∧ (abcAt 6 3).status = 0x46 ∧ (abcAt 9 0).status = 0x89 ∧
    (raiseFault .blockAlign State.reset).status = 0x2F := by decide

/-! ### Witnesses: for each statement with hypotheses, a state and operands that meet all of them together -/

/-- The message "abc", padded: NBLK = 1. -/
theorem abc_geometry (phase : BitVec 4) (t : BitVec 6) : (abcAt phase t).Geometry := ⟨by simp [abcAt, Config.maxLen], rfl, by simp [abcAt, blockCount]⟩

/-- A message of 64 bytes: NBLK = 2. -/
theorem two_geometry (phase : BitVec 4) (t : BitVec 6) (blk : BitVec 56) : (twoAt phase t blk).Geometry :=
  ⟨by simp [twoAt, Config.maxLen], rfl, by simp [twoAt, blockCount]⟩

theorem wit_ReservedCodesAreRefused :
    ((∀ c rest, (withTurn (abcAt 0xA 0) .readStatus).turns ≠ .reset c :: rest) ∧ 0xA ≤ (abcAt 0xA 0).phase.toNat) ∧
    ((∀ c rest, (abcAt 0xE 0).turns ≠ .reset c :: rest) ∧ (abcAt 0xE 0).phase.toNat ≤ 0xE) ∧
    ((∀ c rest, ({ abcAt 6 0 with fcode := 3 } : State).turns ≠ .reset c :: rest) ∧ (abcAt 6 0).phase.toNat ≤ 9 ∧
      ({ abcAt 6 0 with fcode := 3 } : State).fcode = 3) ∧
    ((withTurn (abcAt 0 0) (.command 0b10 3)).CodesLegal ∧
      (withTurn (abcAt 0 0) (.command 0b10 3)).turns = .command 0b10 3 :: [] ∧ 2 ≤ (0b10 : BitVec 2).toNat) :=
  ⟨⟨fun _ _ h => (nomatch h), by decide⟩, ⟨fun _ _ h => (nomatch h), by decide⟩,
    ⟨fun _ _ h => (nomatch h), by decide⟩, ⟨by decide, by decide⟩, by decide⟩

theorem wit_StepRunsTheDecodedInstruction :
    ((abcAt 6 5).fcode ≠ 3 ∧ (abcAt 6 5).turns = [] ∧ decode (.op (abcAt 6 5).phase) = .ok .round) ∧
    ((abcAt 8 5).fcode ≠ 3 ∧ (withTurn (abcAt 8 5) .engine).turns = .engine :: [] ∧
      decode (.op (withTurn (abcAt 8 5) .engine).phase) = .ok .serialize) ∧
    ((withTurn (abcAt 0 0) (.command 0b01 3)).CodesLegal ∧
      (withTurn (abcAt 0 0) (.command 0b01 3)).turns = .command 0b01 3 :: [] ∧ decode (.cmd 0b01 3) = .ok (.start 3)) :=
  ⟨by decide, by decide, ⟨by decide, by decide⟩, by decide⟩

theorem wit_PlacedWordRunsAsTheNextStep : State.reset.CodesLegal ∧
    decodeTableWord 4 0xF = some .waitFault ∧ decodeTableWord 2 0b01 = some (.start 0) := ⟨⟨by decide, by decide⟩, by decide⟩

theorem wit_Add32IsTheExactSumModulo : [(1 : Word), 2].Perm [2, 1] := by decide

theorem wit_RotrMovesEveryBit : (1 ≤ 1 ∧ 1 ≤ 31 ∧ 31 < 32) ∧ (1 ≤ 31 ∧ 31 ≤ 31) := by decide

theorem wit_PaddedMessageFields : ([0x61, 0x62, 0x63] : List Byte).length ≤ Config.maxLen ∧ [0x61, 0x62, 0x63].length < 4 ∧
    4 < (padMessage [0x61, 0x62, 0x63]).length - 8 := by decide

theorem wit_PadByteIsThePaddedMessage : (abcAt 3 0).Geometry ∧ 63 < 64 * (abcAt 3 0).nblk.toNat ∧
    64 * (abcAt 3 0).nblk.toNat ≤ 64 ∧ 2 < (abcAt 3 0).len.toNat ∧ 3 = (abcAt 3 0).len.toNat ∧ (abcAt 3 0).len.toNat < 4 ∧
    55 < 64 * (abcAt 3 0).nblk.toNat - 8 ∧ 64 * (abcAt 3 0).nblk.toNat - 8 ≤ 56 :=
  ⟨abc_geometry 3 0, by decide⟩

theorem wit_SplitContract : (padMessage [0x61]).length % 64 = 0 ∧ ([0x61] : List Byte).length % 64 ≠ 0 := by decide

theorem wit_BlockWordIsTheSplitOfThePad : (twoAt 3 0 1).Geometry ∧ 1 < (twoAt 3 0 1).nblk.toNat := ⟨two_geometry 3 0 1, by decide⟩

theorem wit_ScheduleRecurrence : (List.replicate 16 0 : Block).length = 16 := by decide

theorem wit_DigestIsTotalUpToMaxLen : ([] : List Byte).length ≤ Config.maxLen ∧ ∃ m : List Byte, Config.maxLen < m.length :=
  ⟨by decide, List.replicate (2 ^ 61) 0, by rw [List.length_replicate]; decide⟩

theorem wit_WaitOperationsChangeNothing : State.reset.fcode ≠ 3 ∧ (abcAt 9 0).fcode ≠ 3 ∧ State.reset.turns = [] ∧ State.reset.phase = 0x0 ∧ (abcAt 9 0).turns = [] ∧
    (abcAt 9 0).phase = 0x9 ∧ (abcAt 0xF 0).turns = [] ∧ (abcAt 0xF 0).phase = 0xF := by decide

theorem wit_NocmdChangesNothing : (withTurn (abcAt 6 3) (.command 0b00 9)).CodesLegal ∧
    (withTurn (abcAt 6 3) (.command 0b00 9)).turns = .command 0b00 9 :: [] := ⟨⟨by decide, by decide⟩, rfl⟩

theorem wit_PadEncodesTheLength : (abcAt 1 0).len.toNat ≤ Config.maxLen ∧
    ({ State.reset with len := 2 ^ 61 - 1 } : State).len.toNat = Config.maxLen := by decide +kernel

theorem wit_LoadblkLoadsTheBlock : (twoAt 3 0 1).Geometry ∧ (twoAt 3 0 1).blk.toNat < (twoAt 3 0 1).nblk.toNat :=
  ⟨two_geometry 3 0 1, by decide⟩

theorem wit_LoadblkCompletesExactlyBelowNblk : (twoAt 3 0 1).blk.toNat < (twoAt 3 0 1).nblk.toNat ∧
    (twoAt 3 0 2).nblk.toNat ≤ (twoAt 3 0 2).blk.toNat ∧ State.reset.nblk.toNat ≤ State.reset.blk.toNat := by decide

theorem wit_LoadblkReadsOnlyItsOwnBytes :
    (∀ j, 64 * (abcAt 3 0).blk.toNat ≤ j → j < min (64 * (abcAt 3 0).blk.toNat + 64) (abcAt 3 0).len.toNat →
      (abc.write 3 0xFF).read j = (abcAt 3 0).msg.read j) ∧
    exec .loadblk (abcAt 3 0) = .next (after (exec .loadblk (abcAt 3 0))) := by
  refine ⟨fun j _ hj => ?_, eq_next_after (by decide +kernel)⟩
  rw [Memory.read_write 3 j 0xFF (m := abc) (by decide), if_neg]
  · rfl
  · have : j < 3 := lt_of_lt_of_le hj (by decide)
    omega

theorem wit_ExpandComputesOneWord : 16 ≤ (abcAt 4 16).t.toNat ∧ (abcAt 4 16).t.toNat < 63 ∧ (abcAt 4 63).t.toNat = 63 ∧
    (abcAt 4 15).t.toNat < 16 ∧ (16 : Fin 64).val = (abcAt 4 16).t.toNat ∧ (14 : Fin 64).val + 2 = 16 ∧ (9 : Fin 64).val + 7 = 16 ∧
    (1 : Fin 64).val + 15 = 16 ∧ (0 : Fin 64).val + 16 = 16 := by decide

theorem wit_RoundUpdatesTheWorkingRegisters : (0 : Fin 64).val = (abcAt 6 0).t.toNat ∧ (abcAt 6 0).t.toNat < 63 ∧
    (63 : Fin 64).val = (abcAt 6 63).t.toNat ∧ (abcAt 6 63).t.toNat = 63 := by decide

theorem wit_FeedfwdAddsAndChooses : ((twoAt 7 63 0).blk.toNat < (twoAt 7 63 0).nblk.toNat ∧
      (twoAt 7 63 0).blk.toNat + 1 ≠ (twoAt 7 63 0).nblk.toNat) ∧
    ((twoAt 7 63 1).blk.toNat < (twoAt 7 63 1).nblk.toNat ∧ (twoAt 7 63 1).blk.toNat + 1 = (twoAt 7 63 1).nblk.toNat) := by decide

theorem wit_SerializeWritesTheDigest : (31 : Fin 32).val = 4 * (7 : Fin 8).val + (3 : Fin 4).val := by decide

theorem wit_StartAcceptsOrFaults : (State.reset.phase = 0x0 ∧ (2 ^ 61 - 1 : Nat) ≤ 2 ^ 61 - 1) ∧
    ((abcAt 9 0).phase = 0x9 ∧ (2 ^ 61 : Nat) ≤ 2 ^ 61) ∧ ((abcAt 1 0).phase ≠ 0x0 ∧ (abcAt 0xF 0).phase ≠ 0x9) := by decide

theorem wit_ResetWinsInEveryPhase : (withTurn (abcAt 6 3) (.reset (some .round))).turns = .reset (some .round) :: [] := rfl

theorem wit_ReadStatusReturnsTheByte : ((withTurn (abcAt 6 3) .readStatus).CodesLegal ∧
      (withTurn (abcAt 6 3) .readStatus).turns = .readStatus :: []) ∧
    ((withTurn (abcAt 0xF 3) (.writeStatus 0xFF)).CodesLegal ∧
      (withTurn (abcAt 0xF 3) (.writeStatus 0xFF)).turns = .writeStatus 0xFF :: []) :=
  ⟨⟨⟨by decide, by decide⟩, rfl⟩, ⟨by decide, by decide⟩, rfl⟩

theorem wit_ReadDigestReturnsTheRegister :
    ((withTurn { abcAt 9 0 with digestSet := true } .readDigest).CodesLegal ∧
      (withTurn { abcAt 9 0 with digestSet := true } .readDigest).turns = .readDigest :: [] ∧
      (withTurn { abcAt 9 0 with digestSet := true } .readDigest).digestSet = true) ∧
    ((withTurn State.reset .readDigest).CodesLegal ∧ (withTurn State.reset .readDigest).turns = .readDigest :: [] ∧
      (withTurn State.reset .readDigest).digestSet = false) :=
  ⟨⟨⟨by decide, by decide⟩, by decide⟩, ⟨by decide, by decide⟩, by decide⟩

theorem wit_HostWritesLeaveARunningMessageAlone :
    ((withTurn (abcAt 1 0) (.writeMsg 2 0xFF)).CodesLegal ∧ (withTurn (abcAt 1 0) (.writeMsg 2 0xFF)).turns = .writeMsg 2 0xFF :: [] ∧
      abc.wf = true ∧ 1 ≤ (abcAt 1 0).phase.toNat ∧ (abcAt 1 0).phase.toNat ≤ 8 ∧ (2 : BitVec 61).toNat < (abcAt 1 0).len.toNat) ∧
    ((withTurn (abcAt 8 0) (.writeMsg 3 0xFF)).CodesLegal ∧ (withTurn (abcAt 8 0) (.writeMsg 3 0xFF)).turns = .writeMsg 3 0xFF :: [] ∧
      ¬ (3 : BitVec 61).toNat < (abcAt 8 0).len.toNat) :=
  ⟨⟨⟨by decide, by decide⟩, by decide⟩, ⟨by decide, by decide⟩, by decide⟩

theorem wit_RegistersChangeOnlyUnderTheirWriters : exec .initwr (abcAt 5 0) = .next (after (exec .initwr (abcAt 5 0))) ∧
    (Instr.initwr ≠ .inith ∧ Instr.initwr ≠ .feedfwd) := ⟨rfl, by decide⟩

/-- The legal states of the two messages, in every phase of a transaction. -/
theorem legal_states : ((abcAt 1 0).Inv ∧ (abcAt 2 0).Inv ∧ (twoAt 3 0 1).Inv ∧ (twoAt 4 16 1).Inv ∧ (twoAt 4 63 1).Inv) ∧
    ((twoAt 5 63 1).Inv ∧ (twoAt 6 0 1).Inv ∧ (twoAt 6 63 1).Inv ∧ (twoAt 7 63 0).Inv ∧ (twoAt 7 63 1).Inv ∧ (twoAt 8 63 1).Inv) := by
  refine ⟨⟨?_, ?_, ?_, ?_, ?_⟩, ⟨?_, ?_, ?_, ?_, ?_, ?_⟩⟩ <;> constructor <;> decide

theorem wit_TransitionTable : (twoAt 7 63 0).Inv ∧ (twoAt 7 63 0).turns = [] ∧ 1 ≤ (twoAt 7 63 0).phase.toNat ∧
    (twoAt 7 63 0).phase.toNat ≤ 8 ∧ (twoAt 7 63 0).blk.toNat + 1 < (twoAt 7 63 0).nblk.toNat ∧
    (twoAt 7 63 1).blk.toNat + 1 = (twoAt 7 63 1).nblk.toNat :=
  ⟨legal_states.2.2.2.2.1, by decide⟩

theorem wit_FaultIsLeftByResetOnly : (abcAt 0xF 0).phase = 0xF ∧ step (abcAt 0xF 0) = .next (abcAt 0xF 0) ∧
    ∃ t, step (withTurn (abcAt 0xF 0) (.reset none)) = .next t := ⟨rfl, rfl, _, rfl⟩

theorem wit_DigestChangesOnlyAtSerializeOrReset :
    step { abcAt 8 0 with hash := iv } = .next (after (step { abcAt 8 0 with hash := iv })) ∧
    (after (step { abcAt 8 0 with hash := iv })).digest ≠ ({ abcAt 8 0 with hash := iv } : State).digest :=
  ⟨eq_next_after (by decide +kernel), by decide +kernel⟩

theorem wit_NoAbortButReset :
    ((abcAt 1 0).Inv ∧ 1 ≤ (abcAt 1 0).phase.toNat ∧ (abcAt 1 0).phase.toNat ≤ 8 ∧
      step (abcAt 1 0) = .next (after (step (abcAt 1 0)))) ∧
    ((twoAt 8 63 1).Inv ∧ step (twoAt 8 63 1) = .next (after (step (twoAt 8 63 1))) ∧
      (after (step (twoAt 8 63 1))).phase = 0x9) ∧
    ((withTurn (twoAt 6 0 1) (.writeMsg 64 7)).Inv ∧ (withTurn (twoAt 6 0 1) (.writeMsg 64 7)).turns = .writeMsg 64 7 :: [] ∧
      Turn.writeMsg 64 7 ≠ .engine ∧ goesOn (step (withTurn (twoAt 6 0 1) (.writeMsg 64 7))) = true) :=
  ⟨⟨legal_states.1.1, by decide, by decide, rfl⟩,
    ⟨legal_states.2.2.2.2.2.2, eq_next_after (by decide +kernel), by decide +kernel⟩,
    ⟨by constructor <;> decide, rfl, by decide, by decide⟩⟩

theorem wit_EveryStepKeepsTheStateLegal : (twoAt 7 63 0).Inv ∧ step (twoAt 7 63 0) = .next (after (step (twoAt 7 63 0))) :=
  ⟨legal_states.2.2.2.2.1, eq_next_after (by decide +kernel)⟩

theorem wit_LegalStatesStepSafely : (twoAt 4 63 1).Inv ∧
    ((withTurn (twoAt 4 63 1) (.command 0b10 0)).Inv ∧
      step (withTurn (twoAt 4 63 1) (.command 0b10 0)) = .refused (.reservedCommand 0b10)) ∧
    ((withTurn (twoAt 4 63 1) (.command 0b01 0)).Inv ∧
      step (withTurn (twoAt 4 63 1) (.command 0b01 0)) = .refused .startNotAccepted) ∧
    ((withTurn (twoAt 4 63 1) (.writeMsg 63 0)).Inv ∧ step (withTurn (twoAt 4 63 1) (.writeMsg 63 0)) = .refused .messageHeld) := by
  refine ⟨legal_states.1.2.2.2.2, ⟨?_, rfl⟩, ⟨?_, rfl⟩, ⟨?_, rfl⟩⟩ <;> constructor <;> decide

theorem wit_BusyEngineCountsDown : (twoAt 3 0 1).Inv ∧ (twoAt 3 0 1).turns = [] ∧ 1 ≤ (twoAt 3 0 1).phase.toNat ∧
    (twoAt 3 0 1).phase.toNat ≤ 8 ∧ (abcAt 1 0).phase = 0x1 := ⟨legal_states.1.2.2.1, by decide⟩

theorem wit_TransactionRunsTheDigestTrace : (abcAt 1 0).fcode ≠ 3 ∧ (abcAt 1 0).turns = [] ∧ (abcAt 1 0).phase = 0x1 ∧ (abcAt 1 0).len.toNat ≤ Config.maxLen ∧
    (digestOps (blockCount (abcAt 1 0).len.toNat))[117]? = some .serialize := by decide +kernel

theorem wit_ScheduleOfABlock : (twoAt 3 0 1).Geometry ∧ (twoAt 3 0 1).fcode ≠ 3 ∧ (twoAt 3 0 1).turns = [] ∧ (twoAt 3 0 1).phase = 0x3 ∧
    (twoAt 3 0 1).blk.toNat < (twoAt 3 0 1).nblk.toNat := ⟨two_geometry 3 0 1, by decide⟩

/-- A state in INITWR whose W holds the schedule of sixteen zero words, in the first of two blocks. -/
def scheduled (blk : BitVec 56) : State :=
  { twoAt 5 63 blk with w := Vector.ofFn fun k : Fin 64 => (schedule (List.replicate 16 0)).getD k.val 0 }

theorem wit_CompressionOfABlock : (scheduled 0).fcode ≠ 3 ∧ (scheduled 1).fcode ≠ 3 ∧ (scheduled 0).turns = [] ∧ (scheduled 0).phase = 0x5 ∧
    (scheduled 0).blk.toNat < (scheduled 0).nblk.toNat ∧ (scheduled 0).w.toList = schedule (List.replicate 16 0) ∧
    (scheduled 0).blk.toNat + 1 ≠ (scheduled 0).nblk.toNat ∧ (scheduled 1).blk.toNat + 1 = (scheduled 1).nblk.toNat := by
  decide +kernel

/-- The 118 engine moves of a message of 3 bytes, with moves of a dutiful host among them. -/
def dutifulScript : List Turn :=
  [.writeMsg 3 0xFF, .readStatus] ++ List.replicate 118 .engine ++ [.command 0b00 9, .writeStatus 1, .readDigest]

theorem wit_TransactionComputesTheDigest : ((withTurn State.reset (.command 0b01 3)).phase = 0x0 ∧
      (withTurn State.reset (.command 0b01 3)).fcode ≠ 3 ∧ (3 : BitVec 64).toNat ≤ Config.maxLen ∧ (withTurn State.reset (.command 0b01 3)).turns = [.command 0b01 3]) ∧
    ((abcAt 9 0).phase = 0x9 ∧ (abcAt 9 0).fcode ≠ 3 ∧ (∀ m ∈ dutifulScript, m = .engine ∨ dutifulTurn 3 m = true) ∧
      dutifulScript.count .engine = 3 + 115 * (((3 : BitVec 64).toNat + 8) / 64 + 1)) := by decide +kernel

theorem wit_TransactionsAreIndependent : (abcAt 0 0).fcode ≠ 3 ∧ (abcAt 9 5).fcode ≠ 3 ∧ (withTurn (abcAt 0 0) (.command 0b01 3)).phase = 0x0 ∧
    (withTurn { abcAt 9 5 with hash := iv, msg := abc.write 3 7 } (.command 0b01 3)).phase = 0x9 ∧
    (3 : BitVec 64).toNat ≤ Config.maxLen ∧ (∀ j, j < (3 : BitVec 64).toNat → abc.read j = (abc.write 3 7).read j) := by decide

theorem wit_QuietHostMovesDoNotDisturbTheEngine : (abcAt 1 0).CodesLegal ∧
    (∀ m ∈ [Turn.writeMsg 3 7, .readDigest, .engine, .command 0b00 9, .readStatus, .writeStatus 1],
      m = .engine ∨ dutifulTurn (abcAt 1 0).len m = true) ∧
    Sys2Proof.core.run ([Turn.writeMsg 3 7, .readDigest, .engine, .command 0b00 9, .readStatus, .writeStatus 1].count .engine)
      { abcAt 1 0 with turns := [] } = .next (after (step (abcAt 1 0))) :=
  ⟨⟨by decide, by decide⟩, by decide, rfl⟩

theorem wit_InstancesDoNotInteract : ∃ q, Platform.stepAt 1 [abcAt 5 0, abcAt 1 0] = .next q := ⟨_, rfl⟩

theorem wit_InterleavedInstancesRunAlone : (∃ q, Platform.run [1, 0, 1] [abcAt 5 0, abcAt 1 0] = .next q) ∧
    [abcAt 5 0, abcAt 1 0][1]? = some (abcAt 1 0) := ⟨⟨_, rfl⟩, rfl⟩

theorem wit_CanonicalMemoriesAreEqualWhenReadsAre : abc.wf = true ∧ (∀ a, abc.read a = ((abc.write 3 7).write 3 0).read a) := by
  have h : (abc.write 3 7).write 3 0 = abc := by decide
  exact ⟨by decide, fun a => by rw [h]⟩

end Sys2Proof.Tests
end

section
/-! The state family (10_state.md): what each instruction may write (R20, R51), what a step runs (R31, R84, R189), the constant tables
(R29, R30) and the reset state (R40). -/

namespace Sys2Proof.Machine

/-! ### The frame of each instruction

One lemma an instruction: a next state of exec is the old state but for the registers R20 lets it write. The updates of Machine/Ops.lean
name those registers, so the @[simp] lemmas of Laws/State.lean give every other one. -/

/-- A counted operation ends by writing T and PHASE at most. -/
theorem countOr_frame (next : BitVec 4) (s : State) : ∃ k p, countOr next s = (s.putT k).putPhase p := by
  rcases countOr_cases next s with ⟨_, e⟩ | ⟨_, e, _⟩
  · exact ⟨s.t, next, e⟩
  · exact ⟨s.t + 1, s.phase, e⟩

theorem exec_pad_frame {s t : State} (h : exec .pad s = .next t) :
    ∃ b n p, t = ((s.putBitlen b).putNblk n).putPhase p := by
  cases h; exact ⟨_, _, _, rfl⟩

theorem exec_inith_frame {s t : State} (h : exec .inith s = .next t) :
    ∃ v b p, t = ((s.putHash v).putBlk b).putPhase p := by
  cases h; exact ⟨_, _, _, rfl⟩

theorem exec_loadblk_frame {s t : State} (h : exec .loadblk s = .next t) :
    ∃ w k p, t = ((s.putW w).putT k).putPhase p := by
  rw [exec_loadblk] at h
  obtain ⟨ws, _, _, rfl⟩ := execLoadblk_next h
  exact ⟨_, _, _, rfl⟩

theorem exec_expand_frame {s t : State} (h : exec .expand s = .next t) :
    ∃ w k p, t = ((s.putW w).putT k).putPhase p := by
  obtain ⟨_, rfl⟩ := execExpand_next h
  exact ⟨_, countOr_frame _ _⟩

theorem exec_initwr_frame {s t : State} (h : exec .initwr s = .next t) :
    ∃ r k p, t = ((s.putWork r).putT k).putPhase p := by
  cases h; exact ⟨_, _, _, rfl⟩

theorem exec_round_frame {s t : State} (h : exec .round s = .next t) :
    ∃ r k p, t = ((s.putWork r).putT k).putPhase p := by
  cases h; exact ⟨_, countOr_frame _ _⟩

theorem exec_feedfwd_frame {s t : State} (h : exec .feedfwd s = .next t) :
    ∃ v b p, t = ((s.putHash v).putBlk b).putPhase p := by
  change execFeedfwd s = .next t at h
  rcases execFeedfwd_cases s with ⟨_, e⟩ | ⟨_, e⟩ <;> rw [e] at h <;> cases h
  · exact ⟨_, s.blk, _, rfl⟩
  · exact ⟨_, _, _, rfl⟩

theorem exec_serialize_frame {s t : State} (h : exec .serialize s = .next t) : ∃ d p, t = (s.putDigest d).putPhase p := by
  cases h; exact ⟨_, _, rfl⟩

theorem exec_start_frame {n : Nat} {s t : State} (h : exec (.start n) s = .next t) :
    ∃ l c p, t = ((s.putLen l).putFcode c).putPhase p := by
  change execStart n s = .next t at h
  rcases execStart_cases n s with ⟨_, _, e⟩ | ⟨_, _, e⟩ | ⟨_, _, e⟩ <;> rw [e] at h <;> cases h
  · exact ⟨BitVec.ofNat 64 n, s.fcode, Phase.pad, rfl⟩
  · exact ⟨s.len, HwFault.lenOverflow.code, Phase.fault, rfl⟩

/-- Settles O43, by the frame of each instruction: the waits and NOCMD leave the state, and each other one is its own few updates. -/
theorem registersChangeOnlyUnderTheirWriters : Obligations.RegistersChangeOnlyUnderTheirWriters := by
  intro i s t h
  cases i with
  | waitIdle | waitDone | waitFault | nocmd => cases h; simp
  | pad => obtain ⟨b, n, p, rfl⟩ := exec_pad_frame h; simp
  | inith => obtain ⟨v, b, p, rfl⟩ := exec_inith_frame h; simp
  | loadblk => obtain ⟨w, k, p, rfl⟩ := exec_loadblk_frame h; simp
  | expand => obtain ⟨w, k, p, rfl⟩ := exec_expand_frame h; simp
  | initwr => obtain ⟨r, k, p, rfl⟩ := exec_initwr_frame h; simp
  | round => obtain ⟨r, k, p, rfl⟩ := exec_round_frame h; simp
  | feedfwd => obtain ⟨v, b, p, rfl⟩ := exec_feedfwd_frame h; simp
  | serialize => obtain ⟨d, p, rfl⟩ := exec_serialize_frame h; simp
  | start len => obtain ⟨l, c, p, rfl⟩ := exec_start_frame h; simp

/-! ### What a step runs -/

/-- A PHASE code that names an operation is not reserved (R31, R85). -/
theorem phase_legal_of_decode {p : BitVec 4} {i : Instr} (h : decode (.op p) = .ok i) : p.toNat ≤ 9 ∨ p = Phase.fault := by
  have legal : ∀ q : BitVec 4, (decodeOp q).isOk = true → q.toNat ≤ 9 ∨ q = Phase.fault := by decide
  exact legal p (by rw [show decodeOp p = .ok i from h]; rfl)

/-- Running a code that names an instruction is exec of that instruction. -/
theorem runCode_of_decode {c : Code} {i : Instr} (s : State) (h : decode c = .ok i) : runCode c s = exec i s := by
  rw [runCode, h]

/-- A state whose PHASE names an operation and whose FCODE is not reserved is not stuck. -/
theorem stuck_none_of_decode {s : State} {i : Instr} (hf : s.fcode ≠ 3) (h : decode (.op s.phase) = .ok i) : s.stuck = none :=
  stuck_none (reservedCode_none (phase_legal_of_decode h) hf)

/-- Settles O4: a state with legal codes is not stuck, so its step is the engine's or the first scripted move, which runs its code. -/
theorem stepRunsTheDecodedInstruction : Obligations.StepRunsTheDecodedInstruction := by
  refine ⟨?_, ?_, ?_⟩
  · intro s i hf hts hi
    rw [step_engine (stuck_none_of_decode hf hi) hts, engineStep_of_decode hi]
  · intro s i rest hf hts hi
    rw [step_turn (stuck_none_of_decode hf hi) hts]
    exact engineStep_of_decode (s := s.putTurns rest) hi
  · intro s i c l rest hs hts hi
    rw [step_turn hs.stuck_none hts]
    exact runCode_of_decode (s.putTurns rest) hi

/-! ### Fixed values -/

/-- Settles O13. A root r.f of a prime p has K[n] or IV[j] as the first 32 bits of f exactly when r * 2^32 plus the constant is the
integer root of p scaled by 2^96 or 2^64; the primes are below 8^3 and below 8^2, and r is found among the eight integers below 8. -/
theorem constantsAreRootsOfPrimes : Obligations.ConstantsAreRootsOfPrimes :=
  ⟨rfl, by decide, by decide⟩

/-- Settles O38: the two codes of the reset state, and the STATUS byte they make. -/
theorem resetStateIsIdle : Obligations.ResetStateIsIdle := ⟨rfl, rfl, rfl⟩

end Sys2Proof.Machine
end

section
/-! The memory family (20_memory.md): the host's writes to its message memory (R52), the canonical form of that memory (log 3), and the
separation of the instances of a platform (R64, R215). -/

namespace Sys2Proof.Machine

/-! ### The host's writes -/

/-- A scripted write to MSG of a state with legal codes is the write of the state whose script it has been taken from. -/
theorem step_writeMsg {s : State} {j : BitVec 61} {b : Byte} {rest : List Turn} (hs : s.CodesLegal)
    (hts : s.turns = .writeMsg j b :: rest) : step s = writeMsg j b (s.putTurns rest) :=
  step_turn hs.stuck_none hts

/-- Every 61-bit index is an index of MSG (R37, R50). -/
theorem Memory.index_lt_size (j : BitVec 61) : j.toNat < Memory.size := j.isLt

/-- Settles O42: a write is refused in a busy phase below LEN, and is a memory write elsewhere; the laws of the memory give its form and
its reads. -/
theorem hostWritesLeaveARunningMessageAlone : Obligations.HostWritesLeaveARunningMessageAlone := by
  intro s j b rest hs hts hwf
  rw [step_writeMsg hs hts, ← and_assoc, ← busyPhase_iff]
  rcases writeMsg_cases j b (s.putTurns rest) with ⟨hbusy, hj, e⟩ | ⟨hfree, e⟩
  · exact ⟨fun _ => e, fun hn => absurd ⟨hbusy, hj⟩ hn⟩
  · exact ⟨fun hheld => absurd hheld hfree,
      fun _ => ⟨_, e, rfl, Memory.write_wf hwf (Memory.index_lt_size j), fun a => Memory.read_write j.toNat a b hwf⟩⟩

/-! ### The canonical form -/

/-- The first listed index reads as the byte listed with it. -/
@[simp] theorem Memory.read_head (k : Nat) (b : Byte) (rest : Memory) : Memory.read ((k, b) :: rest) k = b := by
  simp [Memory.read]

/-- Every other index is read in the rest of the list. -/
theorem Memory.read_tail {k a : Nat} (h : a ≠ k) (b : Byte) (rest : Memory) :
    Memory.read ((k, b) :: rest) a = Memory.read rest a := by
  simp [Memory.read, h]

/-- A list in canonical form whose every index reads as blank holds no entry. -/
theorem Memory.eq_nil_of_read_blank {m : Memory} {lo : Nat} (h : Memory.wfFrom lo m = true)
    (hr : ∀ a, m.read a = Memory.blank) : m = [] := by
  cases m with
  | nil => rfl
  | cons e rest =>
    obtain ⟨k, b⟩ := e
    obtain ⟨_, _, hb, _⟩ := Memory.wfFrom_cons.1 h
    exact absurd ((Memory.read_head k b rest).symm.trans (hr k)) hb

/-- In a list in canonical form, an index that does not read as blank is not below the first one listed. -/
theorem Memory.head_le_of_read_ne_blank {lo k a : Nat} {b : Byte} {rest : Memory}
    (h : Memory.wfFrom lo ((k, b) :: rest) = true) (ha : Memory.read ((k, b) :: rest) a ≠ Memory.blank) : k ≤ a :=
  not_lt.1 fun hlt => ha (Memory.read_below (Memory.wfFrom_cons.2 ⟨le_rfl, (Memory.wfFrom_cons.1 h).2⟩) hlt)

/-- Where two lists in canonical form begin at one index and read the same, so do their rests. -/
theorem Memory.read_rest_eq {k : Nat} {b b' : Byte} {m m' : Memory} (h : Memory.wfFrom (k + 1) m = true)
    (h' : Memory.wfFrom (k + 1) m' = true) (hr : ∀ a, Memory.read ((k, b) :: m) a = Memory.read ((k, b') :: m') a) (a : Nat) :
    m.read a = m'.read a := by
  by_cases ha : a = k
  · rw [Memory.read_below h (by omega), Memory.read_below h' (by omega)]
  · rw [← Memory.read_tail ha b m, ← Memory.read_tail ha b' m', hr a]

/-- Lists in canonical form, from any lower bounds, that read the same are equal: the first index of each does not read as blank, so
neither first index is below the other. -/
theorem Memory.eq_of_read_eq {m m' : Memory} {lo lo' : Nat} (h : Memory.wfFrom lo m = true) (h' : Memory.wfFrom lo' m' = true)
    (hr : ∀ a, m.read a = m'.read a) : m = m' := by
  induction m generalizing lo m' lo' with
  | nil => exact (Memory.eq_nil_of_read_blank h' fun a => (hr a).symm).symm
  | cons e rest ih =>
    cases m' with
    | nil => exact Memory.eq_nil_of_read_blank h hr
    | cons e' rest' =>
      obtain ⟨k, b⟩ := e
      obtain ⟨k', b'⟩ := e'
      obtain ⟨_, _, hb, hrest⟩ := Memory.wfFrom_cons.1 h
      obtain ⟨_, _, hb', hrest'⟩ := Memory.wfFrom_cons.1 h'
      have hle : k' ≤ k := Memory.head_le_of_read_ne_blank h' (by rwa [← hr k, Memory.read_head])
      have hge : k ≤ k' := Memory.head_le_of_read_ne_blank h (by rwa [hr k', Memory.read_head])
      obtain rfl : k = k' := le_antisymm hge hle
      have hbb : b = b' := by simpa using hr k
      rw [hbb, ih hrest hrest' (Memory.read_rest_eq hrest hrest' hr)]

/-- Settles O60, by induction on the canonical list, from any lower bound. -/
theorem canonicalMemoriesAreEqualWhenReadsAre : Obligations.CanonicalMemoriesAreEqualWhenReadsAre :=
  fun _ _ h h' hr => Memory.eq_of_read_eq h h' hr

/-! ### The instances of a platform -/

/-- A platform goes on exactly when the instance that moves exists and its own step goes on; its new state takes its place. -/
theorem Platform.stepAt_eq_next {k : Nat} {p q : Platform} :
    Platform.stepAt k p = .next q ↔ ∃ s t, p[k]? = some s ∧ step s = .next t ∧ q = p.set k t := by
  rw [Platform.stepAt]
  constructor
  · intro h
    split at h
    · cases h
    · rename_i s hs
      split at h
      · rename_i t ht; cases h; exact ⟨s, t, hs, ht, rfl⟩
      · cases h
      · cases h
  · rintro ⟨s, t, hs, ht, rfl⟩
    simp [hs, ht]

/-- Settles O58: a step of instance k sets entry k of the platform and no other. -/
theorem instancesDoNotInteract : Obligations.InstancesDoNotInteract := by
  intro p q k h
  obtain ⟨s, t, hs, ht, rfl⟩ := Platform.stepAt_eq_next.1 h
  have hk : k < p.length := (List.getElem?_eq_some_iff.1 hs).1
  exact ⟨List.length_set, fun _ hj => List.getElem?_set_ne hj.symm, s, t, hs, ht, List.getElem?_set_self hk⟩

end Sys2Proof.Machine
end

section
/-! The encoding family (30_encoding.md): the two code spaces (R80, R81, R84), their reserved codes (R85), the byte order of words (R74)
and the words of the opcode table (log 13). -/

namespace Sys2Proof.Machine

/-! ### The two code spaces

A code is that of one instruction, or it is reserved: said once for each code space. -/

/-- R80, R85: the code of one operation, whose encoding it is, or one of the five reserved codes. -/
theorem decodeOp_cases (c : BitVec 4) :
    (∃ i, decodeOp c = .ok i ∧ i.wf = true ∧ encode i = .op c) ∨
    (0xA ≤ c.toNat ∧ c.toNat ≤ 0xE ∧ decodeOp c = .error (.reservedOp c)) := by
  rw [decodeOp]
  split
  case h_12 =>
    have := c.isLt
    refine .inr ⟨?_, ?_, rfl⟩ <;> simp only [imp_false] at * <;> omega
  all_goals
    rename_i h
    exact .inl ⟨_, rfl, rfl, congrArg Code.op (BitVec.eq_of_toNat_eq h.symm)⟩

/-- R81, R85: the code of NOCMD, of START, or one of the two reserved codes. -/
theorem decodeCmd_cases (c : BitVec 2) (l : BitVec 64) :
    (c = 0 ∧ decodeCmd c l = .ok .nocmd) ∨ (c = 1 ∧ decodeCmd c l = .ok (.start l.toNat)) ∨
    (2 ≤ c.toNat ∧ decodeCmd c l = .error (.reservedCmd c)) := by
  obtain rfl | rfl | rfl | rfl : c = 0 ∨ c = 1 ∨ c = 2 ∨ c = 3 := by revert c; decide
  · exact .inl ⟨rfl, rfl⟩
  · exact .inr (.inl ⟨rfl, rfl⟩)
  · exact .inr (.inr ⟨by decide, rfl⟩)
  · exact .inr (.inr ⟨by decide, rfl⟩)

/-- Every value of START's length port is a length that has an encoding (R35). -/
theorem wf_start_toNat (l : BitVec 64) : (Instr.start l.toNat).wf = true := decide_eq_true l.isLt

theorem encode_start_toNat (l : BitVec 64) : encode (.start l.toNat) = .cmd 1 l := by
  rw [encode, BitVec.ofNat_toNat, BitVec.setWidth_eq]

theorem decode_encode {i : Instr} (h : i.wf = true) : decode (encode i) = .ok i := by
  cases i with
  | start len => exact Laws.RoundTrip.start len h
  | _ => rfl

/-- Settles O1: one way by the round trip of each instruction; the other way by the cases of each code space, in which a code that decodes
is the encoding of its instruction, but for NOCMD's, whose length port holds anything. -/
theorem decodeAndEncodeAreInverse : Obligations.DecodeAndEncodeAreInverse := by
  refine ⟨fun _ => decode_encode, fun c i h => ?_⟩
  cases c with
  | op c =>
    rw [decode] at h
    rcases decodeOp_cases c with ⟨j, e, hwf, henc⟩ | ⟨_, _, e⟩ <;> rw [e] at h <;> cases h
    exact ⟨hwf, .inl henc⟩
  | cmd c l =>
    rw [decode] at h
    rcases decodeCmd_cases c l with ⟨rfl, e⟩ | ⟨rfl, e⟩ | ⟨_, e⟩ <;> rw [e] at h <;> cases h
    · exact ⟨rfl, .inr ⟨rfl, l, rfl⟩⟩
    · exact ⟨wf_start_toNat l, .inl (encode_start_toNat l)⟩

/-! ### Reserved codes -/

theorem not_reserved_of_phase_legal {p : BitVec 4} (h : p.toNat ≤ 9 ∨ p = Phase.fault) : ¬ (0xA ≤ p.toNat ∧ p.toNat ≤ 0xE) := by
  rcases h with h | rfl
  · omega
  · decide

theorem decode_op_reserved_iff (c : BitVec 4) : (∀ i, decode (.op c) ≠ .ok i) ↔ 0xA ≤ c.toNat ∧ c.toNat ≤ 0xE := by
  rcases decodeOp_cases c with ⟨i, e, _, _⟩ | ⟨hlo, hhi, e⟩
  · exact iff_of_false (fun h => h i e) (not_reserved_of_phase_legal (phase_legal_of_decode e))
  · exact iff_of_true (fun _ h => nomatch e.symm.trans h) ⟨hlo, hhi⟩

theorem decode_cmd_reserved_iff (c : BitVec 2) (l : BitVec 64) : (∀ i, decode (.cmd c l) ≠ .ok i) ↔ 2 ≤ c.toNat := by
  rcases decodeCmd_cases c l with ⟨rfl, e⟩ | ⟨rfl, e⟩ | ⟨hc, e⟩
  · exact iff_of_false (fun h => h _ e) (by decide)
  · exact iff_of_false (fun h => h _ e) (by decide)
  · exact iff_of_true (fun _ h => nomatch e.symm.trans h) hc

theorem reservedCode_of_phase {s : State} (h : 0xA ≤ s.phase.toNat ∧ s.phase.toNat ≤ 0xE) :
    s.reservedCode = some (.reservedPhase s.phase) := by
  rw [State.reservedCode, if_pos h]

/-- PHASE is looked at before FCODE (log 25). -/
theorem reservedCode_of_fcode {s : State} (hp : s.phase.toNat ≤ 9 ∨ s.phase = Phase.fault) (hf : s.fcode = 3) :
    s.reservedCode = some (.reservedFcode 3) := by
  rw [State.reservedCode, if_neg (not_reserved_of_phase_legal hp), if_pos hf, hf]

/-- Running a code that names no instruction is the refusal of that code. -/
theorem runCode_of_decode_error {c : Code} {e : DecodeError} (s : State) (h : decode c = .error e) :
    runCode c s = .refused (refusalOf e) := by
  rw [runCode, h]

theorem runCode_reservedCmd {c : BitVec 2} (l : BitVec 64) (s : State) (hc : 2 ≤ c.toNat) :
    runCode (.cmd c l) s = .refused (.reservedCommand c) := by
  rcases decodeCmd_cases c l with ⟨rfl, _⟩ | ⟨rfl, _⟩ | ⟨_, e⟩
  · exact absurd hc (by decide)
  · exact absurd hc (by decide)
  · exact runCode_of_decode_error (c := .cmd c l) s e

/-- Settles O2: a state with a reserved code is stuck, with PHASE looked at first; a reserved command runs to its refusal. -/
theorem reservedCodesAreRefused : Obligations.ReservedCodesAreRefused := by
  refine ⟨decode_op_reserved_iff, decode_cmd_reserved_iff, ?_, ?_, ?_⟩
  · intro s hts hlo hhi
    exact step_stuck ((stuck_eq hts).trans (reservedCode_of_phase ⟨hlo, hhi⟩))
  · intro s hts hp hf
    exact step_stuck ((stuck_eq hts).trans (reservedCode_of_fcode hp hf))
  · intro s c l rest hs hts hc
    exact (step_turn hs.stuck_none hts).trans (runCode_reservedCmd l _ hc)

/-! ### Byte order -/

/-- A byte appended below a bit vector is a digit of base 2^8. -/
theorem toNat_append_byte {n : Nat} (x : BitVec n) (b : Byte) : (x ++ b).toNat = x.toNat * 2 ^ 8 + b.toNat := by
  rw [BitVec.toNat_append, ← Nat.shiftLeft_add_eq_or_of_lt b.isLt, Nat.shiftLeft_eq]

theorem wordBe_toNat (b0 b1 b2 b3 : Byte) : (wordBe b0 b1 b2 b3).toNat =
    b0.toNat * 2 ^ 24 + b1.toNat * 2 ^ 16 + b2.toNat * 2 ^ 8 + b3.toNat := by
  simp only [wordBe, toNat_append_byte]
  omega

theorem extractLsb'_eq_byte {x : Word} {k : Nat} {b : Byte} (h : x.toNat / 2 ^ k % 2 ^ 8 = b.toNat) : x.extractLsb' k 8 = b :=
  BitVec.eq_of_toNat_eq (by rw [BitVec.extractLsb'_toNat, Nat.shiftRight_eq_div_pow, h])

theorem be32_wordBe (b0 b1 b2 b3 : Byte) : be32 (wordBe b0 b1 b2 b3) = [b0, b1, b2, b3] := by
  simp only [be32, List.cons.injEq, and_true]
  refine ⟨extractLsb'_eq_byte ?_, extractLsb'_eq_byte ?_, extractLsb'_eq_byte ?_, extractLsb'_eq_byte ?_⟩ <;>
    rw [wordBe_toNat] <;> omega

theorem wordBe_be32 (x : Word) :
    wordBe (x.extractLsb' 24 8) (x.extractLsb' 16 8) (x.extractLsb' 8 8) (x.extractLsb' 0 8) = x := by
  have := x.isLt
  apply BitVec.eq_of_toNat_eq
  simp only [wordBe_toNat, BitVec.extractLsb'_toNat, Nat.shiftRight_eq_div_pow]
  omega

/-- Settles O12: the four bytes are the digits of the word in base 2^8, so each way is arithmetic. -/
theorem wordsAreBigEndian : Obligations.WordsAreBigEndian :=
  ⟨fun b0 b1 b2 b3 => ⟨wordBe_toNat b0 b1 b2 b3, be32_wordBe b0 b1 b2 b3⟩, fun x => ⟨_, _, _, _, rfl, wordBe_be32 x⟩⟩

/-! ### Table words -/

/-- Settles O3: the decoder evaluated on eleven fixed words. -/
theorem tableWordsDecodeToTheirRows : Obligations.TableWordsDecodeToTheirRows := by
  unfold Obligations.TableWordsDecodeToTheirRows; decide

/-- A table word reads as an instruction only through the code it stands for. -/
theorem codeOfTableWord_of_decode {nbits w : Nat} {i : Instr} (h : decodeTableWord nbits w = some i) :
    ∃ c, codeOfTableWord nbits w = some c ∧ decode c = .ok i := by
  rw [decodeTableWord] at h
  split at h
  · cases h
  · rename_i c hc
    split at h <;> cases h
    rename_i hi
    exact ⟨c, hc, hi⟩

theorem State.withFetchWord_of_code (s : State) {nbits w : Nat} {c : Code} (h : codeOfTableWord nbits w = some c) :
    s.withFetchWord nbits w = placeCode c s := by
  rw [State.withFetchWord, placeWord, h]

/-- The script has no part in the legality of the codes. -/
theorem State.CodesLegal.putTurns {s : State} (h : s.CodesLegal) (ts : List Turn) : (s.putTurns ts).CodesLegal :=
  ⟨h.phase_legal, h.fcode_legal⟩

/-- An operation code placed in PHASE runs on the state in which it was placed, with the engine's turn taken. -/
theorem step_placeOp {s : State} {code : BitVec 4} {i : Instr} (hf : s.fcode ≠ 3) (hi : decode (.op code) = .ok i) :
    step (placeOp code s) = exec i ((placeOp code s).putTurns s.turns) :=
  stepRunsTheDecodedInstruction.2.1 (placeOp code s) i s.turns hf rfl hi

/-- A command placed at the CMD port runs on the state itself. -/
theorem step_placeCmd {s : State} {c : BitVec 2} {l : BitVec 64} {i : Instr} (hs : s.CodesLegal)
    (hi : decode (.cmd c l) = .ok i) : step (placeCode (.cmd c l) s) = exec i s :=
  stepRunsTheDecodedInstruction.2.2 (placeCode (.cmd c l) s) i c l s.turns (hs.putTurns _) rfl hi

/-- Settles O5: the word stands for a code, and a placed code of either space runs as the next step; placing writes none of the registers
named. -/
theorem placedWordRunsAsTheNextStep : Obligations.PlacedWordRunsAsTheNextStep := by
  intro s nbits w i hs h
  obtain ⟨c, hc, hi⟩ := codeOfTableWord_of_decode h
  rw [s.withFetchWord_of_code hc]
  cases c with
  | op code => exact ⟨_, step_placeOp hs.fcode_legal hi, rfl, rfl, rfl, rfl, rfl, rfl, rfl, rfl⟩
  | cmd c l => exact ⟨s, step_placeCmd hs hi, rfl, rfl, rfl, rfl, rfl, rfl, rfl, rfl⟩

end Sys2Proof.Machine
end

section
/-! The word functions family (40_word_functions.md): ADD32 is a sum (R100), and each other unit is known by the bits of its result (R101 to
R108). -/

namespace Sys2Proof.Machine

/-! ### ADD32 -/

/-- The fold of ADD32 from any first operand: the carries dropped on the way are multiples of 2^32. -/
theorem foldl_add_toNat (xs : List Word) (a : Word) :
    (xs.foldl (· + ·) a).toNat = (a.toNat + (xs.map BitVec.toNat).sum) % 2 ^ 32 := by
  induction xs generalizing a with
  | nil => simp [Nat.mod_eq_of_lt a.isLt]
  | cons x xs ih => simp [ih, Nat.add_assoc]

/-- R100. -/
theorem add32_toNat (xs : List Word) : (add32 xs).toNat = (xs.map BitVec.toNat).sum % 2 ^ 32 := by
  simp [add32, foldl_add_toNat]

theorem add32_perm {xs ys : List Word} (h : xs.Perm ys) : add32 xs = add32 ys :=
  BitVec.eq_of_toNat_eq (by rw [add32_toNat, add32_toNat, (h.map BitVec.toNat).sum_eq])

/-- Settles O6: the exact sum of the operands does not depend on their order. -/
theorem add32IsTheExactSumModulo : Obligations.Add32IsTheExactSumModulo :=
  ⟨add32_toNat, fun _ _ => add32_perm⟩

/-! ### SHR -/

/-- R102. -/
theorem shr_toNat (x : Word) (n : Nat) : (shr x n).toNat = x.toNat / 2 ^ n := by
  rw [shr, BitVec.toNat_ushiftRight, Nat.shiftRight_eq_div_pow]

/-- R102: bit i of SHR is bit i + n of x while that is a bit of x, and 0 above. -/
theorem shr_getLsbD (x : Word) (n i : Nat) : (shr x n).getLsbD i = (decide (i + n < 32) && x.getLsbD (i + n)) := by
  rw [shr, BitVec.getLsbD_ushiftRight, Nat.add_comm]
  by_cases h : i + n < 32
  · rw [decide_eq_true h, Bool.true_and]
  · rw [decide_eq_false h, Bool.false_and, BitVec.getLsbD_of_ge _ _ (Nat.not_lt.1 h)]

/-- Settles O8: the quotient, and the bits that would come from above bit 31 of x. -/
theorem shrIsDivisionByAPowerOfTwo : Obligations.ShrIsDivisionByAPowerOfTwo := by
  refine fun x n => ⟨shr_toNat x n, fun i hi => ?_⟩
  have above : ¬ i + n < 32 := by omega
  rw [shr_getLsbD, decide_eq_false above, Bool.false_and]

/-! ### ROTR -/

/-- R101: the formula. The right shift has no bit above 31, so only the left shift is cut. -/
theorem rotr_toNat (x : Word) (n : Nat) :
    (rotr x n).toNat = (x.toNat / 2 ^ n ||| x.toNat * 2 ^ (32 - n)) % 2 ^ 32 := by
  have quotient_lt : x.toNat / 2 ^ n < 2 ^ 32 := Nat.lt_of_le_of_lt (Nat.div_le_self ..) x.isLt
  rw [Nat.or_mod_two_pow, Nat.mod_eq_of_lt quotient_lt, rotr, BitVec.toNat_or, BitVec.toNat_ushiftRight,
    BitVec.toNat_shiftLeft, Nat.shiftRight_eq_div_pow, Nat.shiftLeft_eq]

/-- R101: the low bits of ROTR come from the right shift; the n high bits are the n low bits of x. -/
theorem rotr_getLsbD (x : Word) {n i : Nat} (hn : n ≤ 31) (hi : i < 32) :
    (rotr x n).getLsbD i = x.getLsbD ((i + n) % 32) := by
  rw [rotr, BitVec.getLsbD_or, BitVec.getLsbD_ushiftRight, BitVec.getLsbD_shiftLeft, Nat.add_comm n]
  by_cases h : i + n < 32
  · have low : i < 32 - n := by omega
    simp [low, Nat.mod_eq_of_lt h]
  · have high : ¬ i < 32 - n := by omega
    have wrap : (i + n) % 32 = i - (32 - n) := by omega
    simp [hi, high, wrap, Nat.not_lt.1 h]

/-- The positions that a rotation by n reads are those of the word, begun at n. -/
theorem map_add_mod_range (m n : Nat) : (List.range m).map (fun i => (i + n) % m) = (List.range m).rotate n :=
  List.ext_getElem (by simp) fun i _ _ => by simp [List.getElem_rotate]

/-- R101: ROTR permutes the bits of x, so it keeps the number of 1 bits. -/
theorem rotr_count_ones (x : Word) {n : Nat} (hn : n ≤ 31) :
    (List.range 32).countP (fun i => (rotr x n).getLsbD i) = (List.range 32).countP fun i => x.getLsbD i :=
  calc (List.range 32).countP (fun i => (rotr x n).getLsbD i)
      = (List.range 32).countP (fun i => x.getLsbD ((i + n) % 32)) :=
        List.countP_congr fun i hi => by rw [rotr_getLsbD x hn (List.mem_range.1 hi)]
    _ = ((List.range 32).rotate n).countP (fun i => x.getLsbD i) := by rw [← map_add_mod_range, List.countP_map]; rfl
    _ = (List.range 32).countP (fun i => x.getLsbD i) := (List.rotate_perm _ n).countP_eq _

/-- Settles O7: the formula by values, the bits by the two sides of the rotation, their number by the permutation. -/
theorem rotrMovesEveryBit : Obligations.RotrMovesEveryBit :=
  fun x n _ hn => ⟨rotr_toNat x n, fun _ hi => rotr_getLsbD x hn hi, rotr_count_ones x hn⟩

/-! ### CH and MAJ -/

/-- R103. -/
theorem ch_getLsbD (x y z : Word) {i : Nat} (hi : i < 32) :
    (ch x y z).getLsbD i = if x.getLsbD i then y.getLsbD i else z.getLsbD i := by
  rw [ch, BitVec.getLsbD_xor, BitVec.getLsbD_and, BitVec.getLsbD_and, BitVec.getLsbD_not, decide_eq_true hi]
  cases x.getLsbD i <;> simp

/-- R103: the two terms of CH share no 1 bit, so their exclusive or is their or. -/
theorem ch_eq_or (x y z : Word) : ch x y z = ((x &&& y) ||| (~~~x &&& z)) := by
  ext i hi
  cases hx : x[i] <;> simp [ch, hx]

/-- Settles O9: the formula is the definition of CH. -/
theorem chChoosesBitByBit : Obligations.ChChoosesBitByBit :=
  fun x y z => ⟨rfl, ch_eq_or x y z, fun _ hi => ch_getLsbD x y z hi⟩

/-- R104. -/
theorem maj_getLsbD (x y z : Word) (i : Nat) :
    (maj x y z).getLsbD i = decide (2 ≤ (x.getLsbD i).toNat + (y.getLsbD i).toNat + (z.getLsbD i).toNat) := by
  have majority : ∀ a b c : Bool, ((a && b) ^^ (a && c) ^^ (b && c)) = decide (2 ≤ a.toNat + b.toNat + c.toNat) := by decide
  rw [← majority, maj, BitVec.getLsbD_xor, BitVec.getLsbD_xor, BitVec.getLsbD_and, BitVec.getLsbD_and, BitVec.getLsbD_and]

theorem maj_swap_first (x y z : Word) : maj x y z = maj y x z :=
  BitVec.eq_of_getLsbD_eq fun i _ => by rw [maj_getLsbD, maj_getLsbD, Nat.add_comm (x.getLsbD i).toNat]

theorem maj_swap_last (x y z : Word) : maj x y z = maj x z y :=
  BitVec.eq_of_getLsbD_eq fun i _ => by rw [maj_getLsbD, maj_getLsbD, Nat.add_right_comm]

/-- Settles O10: the formula is the definition of MAJ, and the number of 1 bits among three does not depend on their order. -/
theorem majIsTheMajorityBitByBit : Obligations.MajIsTheMajorityBitByBit :=
  fun x y z => ⟨rfl, maj_swap_first x y z, maj_swap_last x y z, fun i _ => maj_getLsbD x y z i⟩

/-! ### The sigma functions -/

/-- Settles O11: each function is the exclusive or of rotations and, for the small ones, a shift, whose bits are known. -/
theorem sigmaFunctionsBitByBit : Obligations.SigmaFunctionsBitByBit := by
  intro x i hi
  have rotated {n : Nat} (hn : n ≤ 31) := rotr_getLsbD x hn hi
  refine ⟨?_, ?_, ?_, ?_⟩
  · simp only [bsig0, BitVec.getLsbD_xor, rotated, Nat.reduceLeDiff]
  · simp only [bsig1, BitVec.getLsbD_xor, rotated, Nat.reduceLeDiff]
  · simp only [ssig0, BitVec.getLsbD_xor, rotated, shr_getLsbD, Nat.reduceLeDiff]
  · simp only [ssig1, BitVec.getLsbD_xor, rotated, shr_getLsbD, Nat.reduceLeDiff]

end Sys2Proof.Machine
end

section
/-! The padder family (41_padder.md): the geometry of the padding (R122), the fields of the padded message (R123), PadByte as a reading of
it (R124) and the operation PAD (R120). -/

namespace Sys2Proof.Machine

/-! ### Geometry -/

/-- R122: with the marker, the zeros end where 8 bytes are left of a block. -/
theorem zeroCount_mod (len : Nat) : (len + 1 + zeroCount len) % 64 = 56 := by
  simp only [zeroCount]; omega

theorem zeroCount_lt (len : Nat) : zeroCount len < 64 := by
  simp only [zeroCount]; omega

/-- R122: the length field takes the last 8 bytes of the last block. -/
theorem lengthField_start (len : Nat) : len + 1 + zeroCount len = 64 * blockCount len - 8 := by
  rw [← paddedLength_eq, paddedLength, Nat.add_sub_cancel]

/-- R122: the zeros are the least number with that remainder, because fewer than 64 of them are taken. -/
theorem zeroCount_le {len z : Nat} (h : (len + 1 + z) % 64 = 56) : zeroCount len ≤ z := by
  have hmod := zeroCount_mod len
  have hlt := zeroCount_lt len
  omega

/-- R127: the block beyond floor(L / 64) + 1. -/
theorem blockCount_eq_add_ite (len : Nat) : blockCount len = len / 64 + 1 + (if 56 ≤ len % 64 then 1 else 0) := by
  rw [blockCount]
  split <;> omega

/-- R123: the padding takes at least the marker and the length field. -/
theorem add_nine_le_padded (len : Nat) : len + 9 ≤ 64 * blockCount len := by
  rw [blockCount]; omega

/-- R123: the padding takes at most 63 zeros beside the marker and the length field. -/
theorem padded_le_add (len : Nat) : 64 * blockCount len ≤ len + 72 := by
  rw [blockCount]; omega

theorem blockCount_eq_one_iff (len : Nat) : blockCount len = 1 ↔ len ≤ 55 := by
  rw [blockCount]; omega

theorem blockCount_pos (len : Nat) : 1 ≤ blockCount len := Nat.le_add_left 1 _

/-- Settles O14: Z by its remainder and its bound, PLEN by the block count, the block count by the remainder of L. -/
theorem paddingGeometry : Obligations.PaddingGeometry :=
  fun len => ⟨zeroCount_mod len, fun _ => zeroCount_le, rfl, paddedLength_eq len, rfl, blockCount_eq_add_ite len⟩

/-! ### The fields of the padded message

One lemma for each field of R125. -/

/-- R72: byte k of the image of a 64-bit value is its digit k in base 2^8, most significant first. -/
theorem lenByte_toNat (v : BitVec 64) (k : Nat) : (lenByte v k).toNat = v.toNat / 2 ^ (8 * (7 - k)) % 256 := by
  rw [lenByte, BitVec.toNat_setWidth, BitVec.toNat_ushiftRight, Nat.shiftRight_eq_div_pow]

theorem padMessage_take (msg : List Byte) : (padMessage msg).take msg.length = msg := by
  simp only [padMessage, List.append_assoc, List.take_left']

theorem padMessage_message (msg : List Byte) {j : Nat} (h : j < msg.length) : (padMessage msg).getD j 0 = msg.getD j 0 := by
  simp only [padMessage, List.append_assoc, List.getD_append _ _ _ _ h]

theorem padMessage_mark (msg : List Byte) : (padMessage msg).getD msg.length 0 = 0x80 := by
  simp [padMessage]

/-- R122: the message, the marker and the zeros end where the length field begins. -/
theorem padMessage_before_lengthField (msg : List Byte) :
    (msg ++ [0x80] ++ List.replicate (zeroCount msg.length) 0x00).length = 64 * blockCount msg.length - 8 := by
  rw [← lengthField_start, List.length_append, List.length_append, List.length_singleton, List.length_replicate]

theorem padMessage_zeros (msg : List Byte) (d : Byte) {j : Nat} (hj : msg.length < j)
    (hz : j < 64 * blockCount msg.length - 8) : (padMessage msg).getD j d = 0x00 := by
  have inside : j - (msg.length + 1) < zeroCount msg.length := by rw [← lengthField_start] at hz; omega
  have after_mark : (msg ++ [(0x80 : Byte)]).length ≤ j := by simpa using hj
  rw [padMessage, List.getD_append _ _ _ _ (by rwa [padMessage_before_lengthField]), List.getD_append_right _ _ _ _ after_mark,
    List.length_append, List.length_singleton, List.getD_replicate _ inside]

theorem padMessage_lengthField (msg : List Byte) {k : Nat} (hk : k < 8) :
    (padMessage msg).getD (64 * blockCount msg.length - 8 + k) 0 = lenByte (padBits msg.length) k := by
  have hlen := padMessage_before_lengthField msg
  rw [padMessage, List.getD_append_right _ _ _ _ (hlen ▸ Nat.le_add_right _ k), hlen, Nat.add_sub_cancel_left, be64_getD _ hk]

/-- Settles O15: the length is that of the geometry, and each field is read by its own lemma. -/
theorem paddedMessageFields : Obligations.PaddedMessageFields := by
  intro msg hmax
  rw [padMessage_length]
  refine ⟨Nat.mul_mod_right 64 _, Nat.le_mul_of_pos_right 64 (blockCount_pos _), rfl, padMessage_take msg, padMessage_mark msg,
    fun _ => padMessage_zeros msg 1, fun k hk => ?_, add_nine_le_padded _, padded_le_add _, blockCount_eq_one_iff _⟩
  rw [padMessage_lengthField msg hk, lenByte_toNat, padBits_toNat hmax]

/-! ### PadByte

The fields again, for the message of a transaction and in its registers; PadByte has the same cases. -/

@[simp] theorem State.message_length (s : State) : s.message.length = s.len.toNat := Memory.message_length _ _

theorem State.Geometry.plen_eq {s : State} (h : s.Geometry) : s.plen = 64 * blockCount s.len.toNat := by
  rw [State.plen, h.nblk_eq]

/-- R121: BITLEN is the length field of Pad. -/
theorem State.Geometry.padBits_eq {s : State} (h : s.Geometry) : padBits s.len.toNat = s.bitlen :=
  BitVec.eq_of_toNat_eq (by rw [padBits_toNat h.len_bound, h.bitlen_eq])

theorem State.padded_message (s : State) {j : Nat} (h : j < s.len.toNat) : (padMessage s.message).getD j 0 = s.msg.read j := by
  rw [padMessage_message _ (by rwa [s.message_length]), State.message, Memory.message_getD _ h]

theorem State.padded_mark (s : State) : (padMessage s.message).getD s.len.toNat 0 = 0x80 := by
  simpa only [State.message_length] using padMessage_mark s.message

theorem State.Geometry.padded_zeros {s : State} (h : s.Geometry) {j : Nat} (hj : s.len.toNat < j) (hz : j < s.plen - 8) :
    (padMessage s.message).getD j 0 = 0x00 :=
  padMessage_zeros s.message 0 (by rwa [s.message_length]) (by rwa [s.message_length, ← h.plen_eq])

theorem State.Geometry.padded_lengthField {s : State} (h : s.Geometry) {j : Nat} (hj : j < s.plen) (hz : s.plen - 8 ≤ j) :
    (padMessage s.message).getD j 0 = lenByte s.bitlen (j - (s.plen - 8)) := by
  have hk : j - (s.plen - 8) < 8 := by omega
  have hfield := padMessage_lengthField s.message hk
  rwa [s.message_length, h.padBits_eq, ← h.plen_eq, Nat.add_sub_cancel' hz] at hfield

/-- R124: below PLEN, PadByte reads the padded message; the two have the same value in each of the four cases. -/
theorem padByte_eq_padMessage {s : State} (h : s.Geometry) {j : Nat} (hj : j < s.plen) :
    padByte s j = .ok ((padMessage s.message).getD j 0) := by
  rcases Nat.lt_trichotomy j s.len.toNat with hm | rfl | hm
  · rw [padByte_message s hj hm, s.padded_message hm]
  · rw [padByte_mark s hj rfl, s.padded_mark]
  · rcases Nat.lt_or_ge j (s.plen - 8) with hz | hz
    · rw [padByte_zeros s hj hm hz, h.padded_zeros hm hz]
    · rw [padByte_length s hj hm hz, h.padded_lengthField hj hz]

/-- R121, R124: the place of byte j of the length field, counted from the end of the padded message. -/
theorem State.Geometry.padded_lengthField_toNat {s : State} (h : s.Geometry) {j : Nat} (hj : j < s.plen) (hz : s.plen - 8 ≤ j) :
    ((padMessage s.message).getD j 0).toNat = s.bitlen.toNat / 2 ^ (8 * (s.plen - 1 - j)) % 256 := by
  have room : s.len.toNat + 9 ≤ s.plen := h.plen_eq ▸ add_nine_le_padded _
  have place : 7 - (j - (s.plen - 8)) = s.plen - 1 - j := by omega
  rw [h.padded_lengthField hj hz, lenByte_toNat, place]

/-- Settles O16: PadByte reads the padded message, whose fields give each case. -/
theorem padByteIsThePaddedMessage : Obligations.PadByteIsThePaddedMessage :=
  fun s hs =>
    ⟨fun _ hj => ⟨_, padByte_eq_padMessage hs hj, rfl, s.padded_message, fun h => h ▸ s.padded_mark, hs.padded_zeros,
      hs.padded_lengthField_toNat hj⟩, fun _ => padByte_above s⟩

/-! ### PAD -/

/-- Settles O26: PAD is its three updates, and up to MAX_LEN both counters fit their registers. -/
theorem padEncodesTheLength : Obligations.PadEncodesTheLength :=
  fun _ hmax => ⟨_, rfl, bitlenOf_toNat hmax, nblkOf_toNat hmax, rfl, rfl⟩

end Sys2Proof.Machine
end

section
/-! The block splitter family (42_block_splitter.md): the contract Split (R130), BlockWord as a reading of Split(Pad(msg)) (R131) and the
operation LOADBLK (R132). -/

namespace Sys2Proof.Machine

/-! ### Split -/

/-- Entry i of a list of values computed from their indices. -/
theorem getD_map_range {α : Type} (f : Nat → α) (d : α) {n i : Nat} (h : i < n) : ((List.range n).map f).getD i d = f i := by
  simp [List.getD, h]

@[simp] theorem splitBlock_length (pm : List Byte) (i : Nat) : (splitBlock pm i).length = 16 := by simp [splitBlock]

theorem splitBlock_getD (pm : List Byte) (i : Nat) {k : Nat} (h : k < 16) : (splitBlock pm i).getD k 0 = splitWord pm i k :=
  getD_map_range (splitWord pm i) 0 h

theorem splitBlocks_aligned {pm : List Byte} (h : pm.length % 64 = 0) :
    splitBlocks pm = .ok ((List.range (pm.length / 64)).map (splitBlock pm)) := if_pos h

theorem splitBlocks_unaligned {pm : List Byte} (h : pm.length % 64 ≠ 0) : splitBlocks pm = .error .blockAlign := if_neg h

/-- Settles O17: the two branches of Split; entry i of its list is block i, whose entry k is word k. -/
theorem splitContract : Obligations.SplitContract := by
  refine fun pm => ⟨fun h => ⟨_, splitBlocks_aligned h, by simp, fun i hi => ?_⟩, splitBlocks_unaligned⟩
  rw [List.length_map, List.length_range] at hi
  rw [getD_map_range (splitBlock pm) [] hi]
  exact ⟨splitBlock_length pm i, fun k hk => splitBlock_getD pm i hk⟩

/-! ### BlockWord -/

/-- R122, R130: a padded message is aligned, so it splits into NBLK blocks. -/
theorem splitBlocks_padMessage (msg : List Byte) :
    splitBlocks (padMessage msg) = .ok ((List.range (blockCount msg.length)).map (splitBlock (padMessage msg))) := by
  have hlen := padMessage_length msg
  rw [splitBlocks_aligned (by omega), hlen, Nat.mul_div_cancel_left _ (by decide)]

theorem State.Geometry.splitBlocks_eq {s : State} (h : s.Geometry) :
    splitBlocks (padMessage s.message) = .ok ((List.range s.nblk.toNat).map (splitBlock (padMessage s.message))) := by
  rw [splitBlocks_padMessage, s.message_length, h.nblk_eq]

/-- Byte b of a block below NBLK is below PLEN. -/
theorem State.block_byte_lt_plen (s : State) {i b : Nat} (hi : i < s.nblk.toNat) (hb : b < 64) : 64 * i + b < s.plen := by
  rw [State.plen]; omega

/-- R131: the four bytes of a word of a block, read by PadByte, are those of the padded message. -/
theorem State.Geometry.padBytes_of_word {s : State} (h : s.Geometry) {i k m : Nat} (hi : i < s.nblk.toNat) (hk : k < 16)
    (hm : m < 4) : padByte s (64 * i + 4 * k + m) = .ok ((padMessage s.message).getD (64 * i + 4 * k + m) 0) := by
  rw [Nat.add_assoc]
  exact padByte_eq_padMessage h (s.block_byte_lt_plen hi (by omega))

/-- R131: BlockWord reads Split(Pad(msg)). -/
theorem State.Geometry.blockWord_eq {s : State} (h : s.Geometry) {i k : Nat} (hi : i < s.nblk.toNat) (hk : k < 16) :
    blockWord s i k = .ok (splitWord (padMessage s.message) i k) :=
  have byte {m : Nat} (hm : m < 4) := h.padBytes_of_word hi hk hm
  blockWord_ok s (byte (m := 0) (by decide)) (byte (by decide)) (byte (by decide)) (byte (by decide))

/-- R72, R74: each half of a 64-bit value is the word of its four bytes. -/
theorem wordBe_lenByte (v : BitVec 64) {m : Nat} (hm : m < 2) :
    wordBe (lenByte v (4 * m)) (lenByte v (4 * m + 1)) (lenByte v (4 * m + 2)) (lenByte v (4 * m + 3)) =
      v.extractLsb' (32 * (1 - m)) 32 := by
  apply BitVec.eq_of_toNat_eq
  simp only [wordBe_toNat, lenByte_toNat, BitVec.extractLsb'_toNat, Nat.shiftRight_eq_div_pow]
  obtain rfl | rfl : m = 0 ∨ m = 1 := by omega
  · omega
  · omega

/-- R131: the length field is the last two words of the last block. -/
theorem State.Geometry.blockWord_lengthField {s : State} (h : s.Geometry) {m : Nat} (hm : m < 2) :
    blockWord s (s.nblk.toNat - 1) (14 + m) = .ok (s.bitlen.extractLsb' (32 * (1 - m)) 32) := by
  have hpos : 1 ≤ s.nblk.toNat := h.nblk_eq ▸ blockCount_pos _
  have byte {c : Nat} (hc : c < 4) : (padMessage s.message).getD (64 * (s.nblk.toNat - 1) + 4 * (14 + m) + c) 0 =
      lenByte s.bitlen (4 * m + c) := by
    have place : 64 * (s.nblk.toNat - 1) + 4 * (14 + m) + c = s.plen - 8 + (4 * m + c) := by rw [State.plen]; omega
    rw [place, h.padded_lengthField (by rw [State.plen]; omega) (Nat.le_add_right _ _), Nat.add_sub_cancel_left]
  have first : (padMessage s.message).getD (64 * (s.nblk.toNat - 1) + 4 * (14 + m)) 0 = lenByte s.bitlen (4 * m) :=
    byte (c := 0) (by decide)
  rw [h.blockWord_eq (by omega) (by omega), splitWord, first, byte (by decide), byte (by decide), byte (by decide),
    wordBe_lenByte s.bitlen hm]

/-- Settles O18: BlockWord and its four bytes are those of the padded message; the length field gives the last two words. -/
theorem blockWordIsTheSplitOfThePad : Obligations.BlockWordIsTheSplitOfThePad := by
  refine fun s h => ⟨_, h.splitBlocks_eq, by simp, fun i k hi hk => ?_, h.blockWord_lengthField (m := 0) (by decide),
    h.blockWord_lengthField (m := 1) (by decide)⟩
  rw [getD_map_range _ [] hi, splitBlock_getD _ i hk]
  have byte {m : Nat} (hm : m < 4) := h.padBytes_of_word hi hk hm
  exact ⟨h.blockWord_eq hi hk, _, _, _, _, byte (m := 0) (by decide), byte (by decide), byte (by decide), byte (by decide),
    h.blockWord_eq hi hk⟩

/-! ### LOADBLK -/

/-- R131, R132: the sixteen words LOADBLK asks for are a block of Split(Pad(msg)). -/
theorem State.Geometry.blockWords_eq {s : State} (h : s.Geometry) {i : Nat} (hi : i < s.nblk.toNat) :
    blockWords s i 16 = .ok (splitBlock (padMessage s.message) i) :=
  blockWords_ok s i (splitWord (padMessage s.message) i) fun _ hk => h.blockWord_eq hi hk

/-- R132. -/
theorem State.Geometry.exec_loadblk_eq {s : State} (h : s.Geometry) (hblk : s.blk.toNat < s.nblk.toNat) :
    exec .loadblk s = .next
      (((s.putW (schedLoad s.w (splitBlock (padMessage s.message) s.blk.toNat))).putT 16).putPhase Phase.expand) := by
  rw [exec_loadblk, execLoadblk_ok (h.blockWords_eq hblk)]

/-- Settles O28: the block's words are loaded in W[0..15], and the frame is that of the three updates. -/
theorem loadblkLoadsTheBlock : Obligations.LoadblkLoadsTheBlock := by
  refine fun s h hblk => ⟨_, _, h.splitBlocks_eq, h.exec_loadblk_eq hblk, fun k => ?_, rfl, rfl, s.loaded_eq _ _ _⟩
  rw [getD_map_range _ [] hblk, State.putPhase_w, State.putT_w, State.putW_w, schedLoad_getElem, splitBlock_length]

/-- Settles O29: below NBLK all sixteen words have values, and above it the first one has none. -/
theorem loadblkCompletesExactlyBelowNblk : Obligations.LoadblkCompletesExactlyBelowNblk := by
  refine fun s => ⟨fun h => ?_, fun h => ?_⟩
  · obtain ⟨ws, hws⟩ := blockWords_below s h le_rfl
    exact ⟨_, (exec_loadblk s).trans (execLoadblk_ok hws)⟩
  · rw [exec_loadblk, execLoadblk_error (blockWords_above s h 15)]

/-! ### The bytes LOADBLK reads

PadByte reads MSG at its own offset at most; BlockWord and the words of a block read the 64 offsets of the block. -/

/-- The read port answers at index j from MSG[j] alone, and only where j is below LEN. -/
theorem msgRead_putMsg (s : State) (m : Memory) {j : Nat} (h : j < s.len.toNat → m.read j = s.msg.read j) :
    msgRead (s.putMsg m) j = msgRead s j := by
  by_cases hj : j < s.len.toNat
  · rw [msgRead_ok (s.putMsg m) hj, msgRead_ok s hj, State.putMsg_msg, h hj]
  · rw [msgRead, msgRead, State.putMsg_len, if_neg hj, if_neg hj]

/-- R124: MSG enters PadByte through the read port only. -/
theorem padByte_putMsg (s : State) (m : Memory) {j : Nat} (h : j < s.len.toNat → m.read j = s.msg.read j) :
    padByte (s.putMsg m) j = padByte s j := by
  rw [padByte, msgRead_putMsg s m h]
  rfl

theorem blockWord_congr {s s' : State} {i k : Nat} (hk : k < 16)
    (h : ∀ b, b < 64 → padByte s' (64 * i + b) = padByte s (64 * i + b)) : blockWord s' i k = blockWord s i k := by
  simp only [blockWord, Nat.add_assoc]
  rw [h (4 * k) (by omega), h (4 * k + 1) (by omega), h (4 * k + 2) (by omega), h (4 * k + 3) (by omega)]

theorem blockWords_congr {s s' : State} {i n : Nat} (hn : n ≤ 16)
    (h : ∀ b, b < 64 → padByte s' (64 * i + b) = padByte s (64 * i + b)) : blockWords s' i n = blockWords s i n := by
  induction n with
  | zero => rfl
  | succ n ih => rw [blockWords, blockWords, ih (by omega), blockWord_congr hn h]

/-- Settles O30: with the message bytes of the block unchanged, its words are the same, and LOADBLK writes no other value. -/
theorem loadblkReadsOnlyItsOwnBytes : Obligations.LoadblkReadsOnlyItsOwnBytes := by
  intro s t m hm hst
  obtain ⟨ws, hws, _, rfl⟩ := execLoadblk_next ((exec_loadblk s).symm.trans hst)
  have same : blockWords (s.putMsg m) s.blk.toNat 16 = .ok ws :=
    hws ▸ blockWords_congr le_rfl fun b hb => padByte_putMsg s m fun hlen => hm _ (by omega) (by omega)
  exact (exec_loadblk (s.putMsg m)).trans (execLoadblk_ok same)

end Sys2Proof.Machine
end

section
/-! The schedule expander family (43_schedule_expander.md): the contract Schedule (R140), the operation EXPAND (R141), and the schedule
that LOADBLK and the 48 EXPANDs of a block leave in W (R142). -/

namespace Sys2Proof.Machine

/-! ### Schedule -/

@[simp] theorem extendSchedule_length (block : Block) (n : Nat) : (extendSchedule block n).length = block.length + n := by
  induction n with
  | zero => rfl
  | succ n ih => rw [extendSchedule, List.length_append, ih]; rfl

theorem schedule_length {block : Block} (hb : block.length = 16) : (schedule block).length = 64 := by
  rw [schedule, extendSchedule_length, hb]

/-- A computed word is appended at the end. -/
theorem extendSchedule_succ_getD_last (block : Block) (n : Nat) :
    (extendSchedule block (n + 1)).getD (block.length + n) 0 = nextWord (extendSchedule block n) := by
  rw [extendSchedule, List.getD_append_right _ _ _ _ (extendSchedule_length block n).le, extendSchedule_length, Nat.sub_self]
  rfl

/-- Computing further words leaves the ones before. -/
theorem extendSchedule_add_getD {block : Block} {n t : Nat} (ht : t < block.length + n) (m : Nat) :
    (extendSchedule block (n + m)).getD t 0 = (extendSchedule block n).getD t 0 := by
  induction m with
  | zero => rfl
  | succ m ih =>
    have inside : t < (extendSchedule block (n + m)).length := by rw [extendSchedule_length]; omega
    rw [← Nat.add_assoc, extendSchedule, List.getD_append _ _ _ _ inside, ih]

/-- A word of the schedule is found as soon as it has been computed. -/
theorem schedule_getD {block : Block} {n t : Nat} (hn : n ≤ 48) (ht : t < block.length + n) :
    (schedule block).getD t 0 = (extendSchedule block n).getD t 0 := by
  obtain ⟨m, hm⟩ := Nat.exists_eq_add_of_le hn
  rw [schedule, hm, extendSchedule_add_getD ht]

theorem schedule_getD_block {block : Block} {t : Nat} (ht : t < block.length) : (schedule block).getD t 0 = block.getD t 0 :=
  schedule_getD (n := 0) (Nat.zero_le _) ht

/-- R140: the recurrence. -/
theorem schedule_getD_computed {block : Block} (hb : block.length = 16) {t : Nat} (h16 : 16 ≤ t) (h64 : t < 64) :
    (schedule block).getD t 0 =
      ssig1 ((schedule block).getD (t - 2) 0) + (schedule block).getD (t - 7) 0 +
        ssig0 ((schedule block).getD (t - 15) 0) + (schedule block).getD (t - 16) 0 := by
  obtain ⟨n, rfl⟩ := Nat.exists_eq_add_of_le h16
  have computed : (schedule block).getD (16 + n) 0 = nextWord (extendSchedule block n) := by
    rw [schedule_getD (n := n + 1) (by omega) (by omega), ← hb, extendSchedule_succ_getD_last]
  have known (d : Nat) (hd : 0 < d) :
      (extendSchedule block n).getD (16 + n - d) 0 = (schedule block).getD (16 + n - d) 0 :=
    (schedule_getD (by omega) (by omega)).symm
  rw [computed, nextWord, extendSchedule_length, hb, add32_four, known 2 (by decide), known 7 (by decide), known 15 (by decide),
    known 16 (by decide)]

/-- Settles O19: the schedule is the block's words, and each computed word is the next word of the ones before it, which stay. -/
theorem scheduleRecurrence : Obligations.ScheduleRecurrence :=
  fun _ hb => ⟨schedule_length hb, fun _ ht => schedule_getD_block (hb ▸ ht), fun _ => schedule_getD_computed hb⟩

/-! ### The counter T -/

/-- Both ends of a counted operation leave W. -/
@[simp] theorem countOr_w (next : BitVec 4) (s : State) : (countOr next s).w = s.w := by
  obtain ⟨k, p, e⟩ := countOr_frame next s
  rw [e, State.putPhase_w, State.putT_w]

theorem countOr_last (next : BitVec 4) {s : State} (h : s.t.toNat = 63) : countOr next s = s.putPhase next := by
  obtain ⟨_, e⟩ | ⟨hlt, _⟩ := countOr_cases next s
  · exact e
  · exact absurd h hlt.ne

theorem countOr_more (next : BitVec 4) {s : State} (h : s.t.toNat < 63) :
    countOr next s = s.putT (s.t + 1) ∧ (s.t + 1).toNat = s.t.toNat + 1 := by
  obtain ⟨hend, _⟩ | ⟨_, e⟩ := countOr_cases next s
  · exact absurd hend h.ne
  · exact e

/-! ### EXPAND -/

/-- The schedule registers after EXPAND: one more word, at T. -/
def expandedW (w : Vector Word 64) (t : BitVec 6) : Vector Word 64 := schedWrite w t (expandWord w t)

theorem exec_expand_of_le {s : State} (h : 16 ≤ s.t.toNat) :
    exec .expand s = .next (countOr Phase.initwr (s.putW (expandedW s.w s.t))) := if_pos h

theorem exec_expand_of_lt {s : State} (h : s.t.toNat < 16) : exec .expand s = .fault .scheduleIndexOutOfRange :=
  if_neg (Nat.not_le.2 h)

/-- W[T - d], where the index does not wrap. -/
theorem schedRead_sub {w : Vector Word 64} {t d : BitVec 6} {i : Fin 64} (h : i.val + d.toNat = t.toNat) :
    schedRead w (t - d) = w[i] := by
  refine schedRead_eq w _ i ?_
  rw [BitVec.toNat_sub_of_le (BitVec.le_def.2 (by omega))]
  omega

/-- R141: the word EXPAND computes, from four registers before it. -/
theorem expandWord_eq {w : Vector Word 64} {t : BitVec 6} {i2 i7 i15 i16 : Fin 64} (h2 : i2.val + 2 = t.toNat)
    (h7 : i7.val + 7 = t.toNat) (h15 : i15.val + 15 = t.toNat) (h16 : i16.val + 16 = t.toNat) :
    expandWord w t = ssig1 w[i2] + w[i7] + ssig0 w[i15] + w[i16] := by
  rw [expandWord, add32_four, schedRead_sub (d := 2) h2, schedRead_sub (d := 7) h7, schedRead_sub (d := 15) h15,
    schedRead_sub (d := 16) h16]

theorem expandedW_same {w : Vector Word 64} {t : BitVec 6} {i : Fin 64} (h : i.val = t.toNat) :
    (expandedW w t)[i] = expandWord w t := (schedWrite_getElem w t _ i).trans (if_pos h)

theorem expandedW_other {w : Vector Word 64} {t : BitVec 6} {k : Fin 64} (h : k.val ≠ t.toNat) : (expandedW w t)[k] = w[k] :=
  (schedWrite_getElem w t _ k).trans (if_neg h)

/-- Settles O31: EXPAND writes its word at T, and the two ends of the counter give PHASE, T and the frame. -/
theorem expandComputesOneWord : Obligations.ExpandComputesOneWord := by
  refine ⟨fun s h => ⟨_, exec_expand_of_le h, fun k hk => ?_, fun i i2 i7 i15 i16 hi h2 h7 h15 h16 => ?_, fun hT => ?_,
    fun hT => ?_⟩, fun _ => exec_expand_of_lt⟩
  · rw [countOr_w, State.putW_w, expandedW_other hk]
  · rw [countOr_w, State.putW_w, expandedW_same hi]
    exact expandWord_eq (h2.trans hi) (h7.trans hi) (h15.trans hi) (h16.trans hi)
  · rw [countOr_last (s := s.putW (expandedW s.w s.t)) _ hT]; rfl
  · obtain ⟨e, hT'⟩ := countOr_more Phase.initwr (s := s.putW (expandedW s.w s.t)) hT
    rw [e]; exact ⟨hT', rfl⟩

/-! ### The 48 EXPANDs of a block

What holds between them: the schedule registers below T hold the words of the schedule. -/

/-- W[0..n-1] are the first n words of the schedule of a block. -/
def ScheduledBelow (block : Block) (w : Vector Word 64) (n : Nat) : Prop :=
  ∀ k : Fin 64, k.val < n → w[k] = (schedule block).getD k.val 0

/-- R132: LOADBLK loads the words that are the block's own. -/
theorem scheduledBelow_schedLoad {block : Block} (hb : block.length = 16) (w : Vector Word 64) :
    ScheduledBelow block (schedLoad w block) 16 := by
  intro k hk
  rw [schedLoad_getElem, hb, if_pos hk, schedule_getD_block (hb ▸ hk)]

/-- With the words below T in place, EXPAND computes the schedule's word at T, because it follows the schedule's recurrence. -/
theorem ScheduledBelow.expandWord_eq_schedule {block : Block} (hb : block.length = 16) {w : Vector Word 64} {t : BitVec 6}
    (h : ScheduledBelow block w t.toNat) (h16 : 16 ≤ t.toNat) : expandWord w t = (schedule block).getD t.toNat 0 := by
  have before (d : Nat) (hd : 0 < d) (hd' : d ≤ 16) :
      ∃ i : Fin 64, i.val + d = t.toNat ∧ w[i] = (schedule block).getD (t.toNat - d) 0 :=
    ⟨⟨t.toNat - d, by omega⟩, Nat.sub_add_cancel (hd'.trans h16), h _ (by simp only; omega)⟩
  obtain ⟨i2, h2, e2⟩ := before 2 (by decide) (by decide)
  obtain ⟨i7, h7, e7⟩ := before 7 (by decide) (by decide)
  obtain ⟨i15, h15, e15⟩ := before 15 (by decide) (by decide)
  obtain ⟨i16, h16', e16⟩ := before 16 (by decide) (by decide)
  rw [expandWord_eq h2 h7 h15 h16', e2, e7, e15, e16, schedule_getD_computed hb h16 t.isLt]

/-- Each EXPAND puts one more word of the schedule in place. -/
theorem ScheduledBelow.expand {block : Block} (hb : block.length = 16) {w : Vector Word 64} {t : BitVec 6}
    (h : ScheduledBelow block w t.toNat) (h16 : 16 ≤ t.toNat) : ScheduledBelow block (expandedW w t) (t.toNat + 1) := by
  intro k hk
  by_cases hkt : k.val = t.toNat
  · rw [expandedW_same hkt, h.expandWord_eq_schedule hb h16, hkt]
  · rw [expandedW_other hkt, h k (by omega)]

theorem ScheduledBelow.toList_eq {block : Block} (hb : block.length = 16) {w : Vector Word 64} (h : ScheduledBelow block w 64) :
    w.toList = schedule block := by
  refine List.ext_getElem (by rw [Vector.length_toList, schedule_length hb]) fun i hi hi' => ?_
  rw [Vector.length_toList] at hi
  rw [Vector.getElem_toList, ← List.getD_eq_getElem _ 0 hi']
  exact h ⟨i, hi⟩ hi

/-- The engine's step in phase EXPAND. -/
theorem step_expand {s : State} (hf : s.fcode ≠ 3) (hts : s.turns = []) (hp : s.phase = Phase.expand) (h16 : 16 ≤ s.t.toNat) :
    step s = .next (countOr Phase.initwr (s.putW (expandedW s.w s.t))) :=
  (stepRunsTheDecodedInstruction.1 s .expand hf hts (by rw [hp]; rfl)).trans (exec_expand_of_le h16)

/-- R141, R142: from 16 <= T the EXPANDs that are left, for T to 63, complete the schedule and write only W, T and PHASE. -/
theorem run_expand {block : Block} (hb : block.length = 16) {n : Nat} {s : State} (hf : s.fcode ≠ 3) (hts : s.turns = [])
    (hp : s.phase = Phase.expand) (h16 : 16 ≤ s.t.toNat) (hn : s.t.toNat + n = 63) (h : ScheduledBelow block s.w s.t.toNat) :
    ∃ w k, Sys2Proof.core.run (n + 1) s = .next (((s.putW w).putT k).putPhase Phase.initwr) ∧ ScheduledBelow block w 64 := by
  induction n generalizing s with
  | zero =>
    have hstep := step_expand hf hts hp h16
    rw [countOr_last (s := s.putW (expandedW s.w s.t)) _ hn] at hstep
    have hw := h.expand hb h16
    rw [show s.t.toNat = 63 from hn] at hw
    exact ⟨expandedW s.w s.t, s.t, run_succ 0 hstep, hw⟩
  | succ n ih =>
    have hstep := step_expand hf hts hp h16
    obtain ⟨e, hT⟩ := countOr_more Phase.initwr (s := s.putW (expandedW s.w s.t)) (by rw [State.putW_t]; omega)
    rw [e] at hstep
    rw [State.putW_t] at hT
    obtain ⟨w, k, hrun, hw⟩ := ih (s := (s.putW (expandedW s.w s.t)).putT (s.t + 1)) hf hts hp
      (by rw [State.putT_t, hT]; omega) (by rw [State.putT_t, hT]; omega) (by rw [State.putT_t, hT]; exact h.expand hb h16)
    exact ⟨w, k, (run_succ (n + 1) hstep).trans hrun, hw⟩

/-! ### LOADBLK and the EXPANDs -/

/-- The engine's step in phase LOAD, with a block left. -/
theorem State.Geometry.step_loadblk {s : State} (h : s.Geometry) (hf : s.fcode ≠ 3) (hts : s.turns = []) (hp : s.phase = Phase.load)
    (hblk : s.blk.toNat < s.nblk.toNat) :
    step s = .next
      (((s.putW (schedLoad s.w (splitBlock (padMessage s.message) s.blk.toNat))).putT 16).putPhase Phase.expand) :=
  (stepRunsTheDecodedInstruction.1 s .loadblk hf hts (by rw [hp]; rfl)).trans (h.exec_loadblk_eq hblk)

/-- R142: from phase LOAD with a block left, one LOADBLK and 48 EXPANDs. -/
theorem State.Geometry.run_schedule {s : State} (h : s.Geometry) (hf : s.fcode ≠ 3) (hts : s.turns = []) (hp : s.phase = Phase.load)
    (hblk : s.blk.toNat < s.nblk.toNat) :
    ∃ w k, Sys2Proof.core.run 49 s = .next (((s.putW w).putT k).putPhase Phase.initwr) ∧
      w.toList = schedule (splitBlock (padMessage s.message) s.blk.toNat) := by
  have hb := splitBlock_length (padMessage s.message) s.blk.toNat
  have hstep := h.step_loadblk hf hts hp hblk
  have hload := scheduledBelow_schedLoad hb s.w
  -- The loaded words are named, so that no comparison of states evaluates them.
  generalize schedLoad s.w (splitBlock (padMessage s.message) s.blk.toNat) = loaded at hstep hload
  obtain ⟨w, k, hrun, hw⟩ := run_expand hb (n := 47) (s := ((s.putW loaded).putT 16).putPhase Phase.expand) hf hts rfl
    le_rfl rfl hload
  exact ⟨w, k, (run_succ 48 hstep).trans hrun, hw.toList_eq hb⟩

/-- Settles O53: Split(Pad(msg)) has the block that LOADBLK loads, and the frame is that of the updates of W, T and PHASE. -/
theorem scheduleOfABlock : Obligations.ScheduleOfABlock := by
  intro s h hf hts hp hblk
  obtain ⟨w, k, hrun, hw⟩ := h.run_schedule hf hts hp hblk
  refine ⟨_, _, h.splitBlocks_eq, hrun, ?_, rfl, s.loaded_eq w k Phase.initwr⟩
  rw [getD_map_range _ [] hblk]
  exact hw

end Sys2Proof.Machine
end

section
/-! The compression round engine family (44_compressor.md): the contracts Round (R152) and Compress (R154), the operations INITWR, ROUND
and FEEDFWD (R150, R151, R153), and what they leave in H for a block (R157). -/

namespace Sys2Proof.Machine

/-! ### Round -/

/-- R152: the tuple form, with the sums written out. -/
theorem roundFn_eq (r : Work) (k x : Word) :
    roundFn r k x =
      ⟨r.h + bsig1 r.e + ch r.e r.f r.g + k + x + (bsig0 r.a + maj r.a r.b r.c), r.a, r.b, r.c,
        r.d + (r.h + bsig1 r.e + ch r.e r.f r.g + k + x), r.e, r.f, r.g⟩ := by
  simp only [roundFn, roundT1, roundT2, add32_two, add32_five]

/-- Settles O20: no assignment of the source reads a register that one before it has written, so they leave the tuple of R152. -/
theorem roundIsTheSourcesStatementOrder : Obligations.RoundIsTheSourcesStatementOrder := roundFn_eq

/-! ### Compress -/

theorem toList_getD_of_lt {α : Type} {n : Nat} (v : Vector α n) (d : α) {i : Nat} (h : i < n) : v.toList.getD i d = v[i] := by
  rw [List.getD_eq_getElem _ _ (by rwa [Vector.length_toList]), Vector.getElem_toList]

/-- R153: the eight additions, a paired with word 0, ..., h with word 7. -/
theorem feedForward_toList (hin : Vector Word 8) (r : Work) :
    (feedForward hin r).toList = [hin[0] + r.a, hin[1] + r.b, hin[2] + r.c, hin[3] + r.d, hin[4] + r.e, hin[5] + r.f,
      hin[6] + r.g, hin[7] + r.h] := by
  simp only [feedForward, add32_two, Vector.toList_ofFn]
  rfl

/-- Settles O21: the sequence is that of the first n rounds, for every n; it begins with Hin and steps by its definition. -/
theorem compressIsTheFoldOfTheRounds : Obligations.CompressIsTheFoldOfTheRounds := by
  refine fun hin block => ⟨runRounds (schedule block) (Work.ofVector hin), rfl, fun t => ?_, feedForward_toList hin _⟩
  rw [runRounds, toList_getD_of_lt kTable 0 t.isLt]
  rfl

/-! ### INITWR -/

/-- Settles O32: INITWR is its three updates, and the working registers pair with H in order. -/
theorem initwrLoadsTheWorkingRegisters : Obligations.InitwrLoadsTheWorkingRegisters := fun _ => rfl

/-! ### ROUND -/

/-- The working registers after ROUND: a round with K[T] and W[T]. -/
def State.roundedWork (s : State) : Work := roundFn s.work (roundConstant s.t) (schedRead s.w s.t)

theorem exec_round_eq (s : State) : exec .round s = .next (countOr Phase.feed (s.putWork s.roundedWork)) := rfl

theorem roundConstant_eq (t : BitVec 6) (i : Fin 64) (h : i.val = t.toNat) : roundConstant t = kTable[i] := schedRead_eq kTable t i h

/-- R151: the round of the old registers, with the table's constant and the schedule's word. -/
theorem State.roundedWork_eq (s : State) {i : Fin 64} (h : i.val = s.t.toNat) :
    s.roundedWork = roundFn s.work kTable[i] s.w[i] := by
  rw [State.roundedWork, roundConstant_eq s.t i h, schedRead_eq s.w s.t i h]

/-- Settles O33: the new registers are the tuple of R152, and the two ends of the counter give PHASE, T and the frame. -/
theorem roundUpdatesTheWorkingRegisters : Obligations.RoundUpdatesTheWorkingRegisters := by
  intro s i hi
  have registers := (s.roundedWork_eq hi).trans (roundFn_eq s.work kTable[i] s.w[i])
  refine ⟨fun hT => ?_, fun hT => ?_⟩
  · rw [exec_round_eq, countOr_last (s := s.putWork s.roundedWork) _ hT, registers]
    rfl
  · obtain ⟨e, hT'⟩ := countOr_more Phase.feed (s := s.putWork s.roundedWork) hT
    rw [exec_round_eq, e, registers]
    exact ⟨_, rfl, hT', rfl⟩

/-! ### FEEDFWD -/

/-- R153: FEEDFWD writes the feed-forward; which of its two successors it takes shows in BLK and PHASE only. -/
theorem exec_feedfwd_eq {s : State} (h : s.blk.toNat < s.nblk.toNat) :
    ∃ b p, exec .feedfwd s = .next (((s.putHash (feedForward s.hash s.work)).putBlk b).putPhase p) ∧
      (s.blk.toNat + 1 = s.nblk.toNat → b = s.blk ∧ p = Phase.ser) ∧
      (s.blk.toNat + 1 ≠ s.nblk.toNat → b.toNat = s.blk.toNat + 1 ∧ p = Phase.load) := by
  obtain ⟨hlast, e⟩ | ⟨hmore, e⟩ := execFeedfwd_cases s
  · exact ⟨s.blk, Phase.ser, e, fun _ => ⟨rfl, rfl⟩, (absurd hlast ·)⟩
  · exact ⟨nextBlk s.blk s.nblk, Phase.load, e, (absurd · hmore), fun _ => ⟨nextBlk_toNat h, rfl⟩⟩

/-- Settles O34: the eight additions, and in each of the two cases the successor and the frame. -/
theorem feedfwdAddsAndChooses : Obligations.FeedfwdAddsAndChooses := by
  intro s h
  obtain ⟨b, p, e, last, more⟩ := exec_feedfwd_eq h
  refine ⟨_, e, feedForward_toList s.hash s.work, fun hlast => ?_, fun hmore => ?_⟩
  · obtain ⟨rfl, rfl⟩ := last hlast
    rfl
  · obtain ⟨hb, rfl⟩ := more hmore
    exact ⟨hb, rfl⟩

/-! ### The 64 ROUNDs of a block

What holds between them: the working registers are those after the first T rounds of the block. -/

/-- ROUND is round number T of Compress, where W holds the schedule. -/
theorem State.roundedWork_of_runRounds {s : State} {ws : List Word} {r : Work} (hw : s.w.toList = ws)
    (h : s.work = runRounds ws r s.t.toNat) : s.roundedWork = runRounds ws r (s.t.toNat + 1) := by
  rw [State.roundedWork, h, runRounds, ← hw, toList_getD_of_lt kTable 0 s.t.isLt, toList_getD_of_lt s.w 0 s.t.isLt]
  rfl

/-- The engine's step in phase ROUND. -/
theorem step_round {s : State} (hf : s.fcode ≠ 3) (hts : s.turns = []) (hp : s.phase = Phase.round) :
    step s = .next (countOr Phase.feed (s.putWork s.roundedWork)) :=
  (stepRunsTheDecodedInstruction.1 s .round hf hts (by rw [hp]; rfl)).trans (exec_round_eq s)

/-- R151, R154: the ROUNDs that are left, for T to 63, complete the 64 rounds and write only a..h, T and PHASE. The registers they leave
are a variable with an equation, so that no comparison of states evaluates 64 rounds. -/
theorem run_round {ws : List Word} {r : Work} {n : Nat} {s : State} (hf : s.fcode ≠ 3) (hts : s.turns = [])
    (hp : s.phase = Phase.round) (hw : s.w.toList = ws) (hn : s.t.toNat + n = 63) (h : s.work = runRounds ws r s.t.toNat) :
    ∃ r' k, Sys2Proof.core.run (n + 1) s = .next (((s.putWork r').putT k).putPhase Phase.feed) ∧ r' = runRounds ws r 64 := by
  induction n generalizing s with
  | zero =>
    have hT : s.t.toNat = 63 := hn
    have hstep := step_round hf hts hp
    rw [countOr_last (s := s.putWork s.roundedWork) _ hT] at hstep
    exact ⟨s.roundedWork, s.t, run_succ 0 hstep, (State.roundedWork_of_runRounds hw h).trans (by rw [hT])⟩
  | succ n ih =>
    have hstep := step_round hf hts hp
    obtain ⟨e, hT⟩ := countOr_more Phase.feed (s := s.putWork s.roundedWork) (by rw [State.putWork_t]; omega)
    rw [e] at hstep
    rw [State.putWork_t] at hT
    obtain ⟨r', k, hrun, hr'⟩ := ih (s := (s.putWork s.roundedWork).putT (s.t + 1)) hf hts hp hw
      (by rw [State.putT_t, hT]; omega) (by rw [State.putT_t, hT]; exact State.roundedWork_of_runRounds hw h)
    exact ⟨r', k, (run_succ (n + 1) hstep).trans hrun, hr'⟩

/-! ### INITWR, the ROUNDs and FEEDFWD -/

/-- R157: from phase INITWR with a block left and its schedule in W, one INITWR, 64 ROUNDs and one FEEDFWD. -/
theorem run_compression {s : State} {block : Block} (hf : s.fcode ≠ 3) (hts : s.turns = []) (hp : s.phase = Phase.initwr)
    (hblk : s.blk.toNat < s.nblk.toNat) (hw : s.w.toList = schedule block) :
    ∃ r k b p, Sys2Proof.core.run 66 s =
        .next (((((s.putWork r).putT k).putHash (compress s.hash block)).putBlk b).putPhase p) ∧
      (s.blk.toNat + 1 = s.nblk.toNat → b = s.blk ∧ p = Phase.ser) ∧
      (s.blk.toNat + 1 ≠ s.nblk.toNat → b.toNat = s.blk.toNat + 1 ∧ p = Phase.load) := by
  have hinitwr : step s = .next (((s.putWork (Work.ofVector s.hash)).putT 0).putPhase Phase.round) :=
    stepRunsTheDecodedInstruction.1 s .initwr hf hts (by rw [hp]; rfl)
  obtain ⟨r, k, hrounds, hr⟩ := run_round (r := Work.ofVector s.hash) (n := 63)
    (s := ((s.putWork (Work.ofVector s.hash)).putT 0).putPhase Phase.round) hf hts rfl hw rfl rfl
  obtain ⟨b, p, hfeed, last, more⟩ := exec_feedfwd_eq (s := ((s.putWork r).putT k).putPhase Phase.feed) hblk
  have hstep := (stepRunsTheDecodedInstruction.1 (((s.putWork r).putT k).putPhase Phase.feed) .feedfwd hf hts rfl).trans hfeed
  refine ⟨r, k, b, p, ?_, last, more⟩
  rw [compress, ← hr]
  exact (run_succ 65 hinitwr).trans ((run_add 64 1 hrounds).trans (run_succ 0 hstep))

/-- Settles O54: H holds Compress of the old H, and the frame is that of the updates of a..h, T, H, BLK and PHASE. -/
theorem compressionOfABlock : Obligations.CompressionOfABlock := by
  intro s block hf hts hp hblk hw
  obtain ⟨r, k, b, p, hrun, last, more⟩ := run_compression hf hts hp hblk hw
  exact ⟨_, hrun, rfl, fun h => (last h).symm, fun h => (more h).symm, rfl⟩

end Sys2Proof.Machine
end

section
/-! The digest serializer family (45_digest_serializer.md): the contract Serialize (R170), the operation SERIALIZE (R171), and what may
change DIGEST (R172, R36). -/

namespace Sys2Proof.Machine

/-! ### Words to bytes -/

/-- R170: byte m of the image of a word. -/
theorem be32_getD_toNat (x : Word) {m : Nat} (hm : m < 4) :
    ((be32 x).getD m 0).toNat = x.toNat / 2 ^ (8 * (3 - m)) % 256 := by
  obtain rfl | rfl | rfl | rfl : m = 0 ∨ m = 1 ∨ m = 2 ∨ m = 3 := by omega
  all_goals exact (BitVec.extractLsb'_toNat ..).trans (by rw [Nat.shiftRight_eq_div_pow])

theorem be32_injective : Function.Injective be32 := by
  intro x y h
  simp only [be32, List.cons.injEq, and_true] at h
  obtain ⟨h24, h16, h8, h0⟩ := h
  rw [← wordBe_be32 x, ← wordBe_be32 y, h24, h16, h8, h0]

/-- Each word's image takes four bytes. -/
theorem flatMap_be32_length (ws : List Word) : (ws.flatMap be32).length = 4 * ws.length := by
  induction ws with
  | nil => rfl
  | cons w ws ih => simp only [List.flatMap_cons, List.length_append, List.length_cons, be32_length, ih]; omega

/-- So word j begins at byte 4j. -/
theorem flatMap_be32_getD (ws : List Word) {j m : Nat} (hj : j < ws.length) (hm : m < 4) :
    (ws.flatMap be32).getD (4 * j + m) 0 = (be32 (ws.getD j 0)).getD m 0 := by
  induction ws generalizing j with
  | nil => exact absurd hj (Nat.not_lt_zero j)
  | cons w ws ih =>
    rw [List.flatMap_cons]
    cases j with
    | zero => rw [List.getD_append _ _ _ _ (by rw [be32_length]; omega), Nat.mul_zero, Nat.zero_add, List.getD_cons_zero]
    | succ j =>
      rw [List.getD_append_right _ _ _ _ (by rw [be32_length]; omega), be32_length, List.getD_cons_succ,
        ← ih (Nat.lt_of_succ_lt_succ hj)]
      congr 1
      omega

/-- The images have one length, so equal streams of bytes have equal words one by one. -/
theorem flatMap_be32_injective : Function.Injective (List.flatMap be32) := by
  intro xs ys h
  induction xs generalizing ys with
  | nil =>
    cases ys with
    | nil => rfl
    | cons y ys => cases h
  | cons x xs ih =>
    cases ys with
    | nil => cases h
    | cons y ys =>
      rw [List.flatMap_cons, List.flatMap_cons] at h
      obtain ⟨hw, hrest⟩ := List.append_inj h rfl
      rw [be32_injective hw, ih hrest]

/-! ### Serialize -/

@[simp] theorem serialize_length (hs : Vector Word 8) : (serialize hs).length = 32 := by
  rw [serialize, flatMap_be32_length, Vector.length_toList]

/-- R170: byte 4j + m is byte m of word j. -/
theorem serialize_getD_toNat (hs : Vector Word 8) (j : Fin 8) {m : Nat} (hm : m < 4) :
    ((serialize hs).getD (4 * j.val + m) 0).toNat = hs[j].toNat / 2 ^ (8 * (3 - m)) % 256 := by
  rw [serialize, flatMap_be32_getD _ (by rw [Vector.length_toList]; exact j.isLt) hm, be32_getD_toNat _ hm,
    toList_getD_of_lt hs 0 j.isLt]
  rfl

theorem serialize_injective : Function.Injective serialize :=
  fun _ _ h => Vector.toList_inj.1 (flatMap_be32_injective h)

/-- Settles O22: the words' images are laid end to end, four bytes each, and each determines its word. -/
theorem serializeContract : Obligations.SerializeContract :=
  ⟨fun hs => ⟨serialize_length hs, fun j _ => serialize_getD_toNat hs j⟩, fun _ _ h => serialize_injective h⟩

/-! ### SERIALIZE -/

/-- R171: byte 4j + m of the operation's bytes. -/
theorem digestBytes_toNat (hs : Vector Word 8) {j : Fin 8} {m : Nat} (hm : m < 4) {n : Fin 32} (hn : n.val = 4 * j.val + m) :
    (digestBytes hs)[n].toNat = hs[j].toNat / 2 ^ (8 * (3 - m)) % 256 := by
  have hj : n.val / 4 = j.val := by omega
  have hm' : n.val % 4 = m := by omega
  simp only [digestBytes, Fin.getElem_fin, Vector.getElem_ofFn, hj, hm', BitVec.toNat_setWidth, BitVec.toNat_ushiftRight,
    Nat.shiftRight_eq_div_pow, Nat.reducePow]

/-- R171: the operation writes the bytes of the contract. -/
theorem digestBytes_toList (hs : Vector Word 8) : (digestBytes hs).toList = serialize hs := by
  refine List.ext_getElem (by rw [Vector.length_toList, serialize_length]) fun n hn hn' => BitVec.eq_of_toNat_eq ?_
  rw [serialize_length] at hn'
  have hsplit : n = 4 * (n / 4) + n % 4 := (Nat.div_add_mod n 4).symm
  have hbyte := serialize_getD_toNat hs ⟨n / 4, by omega⟩ (Nat.mod_lt n (by decide))
  rw [← hsplit, List.getD_eq_getElem _ 0 (by rwa [serialize_length])] at hbyte
  rw [Vector.getElem_toList, hbyte]
  exact digestBytes_toNat hs (Nat.mod_lt n (by decide)) (n := ⟨n, hn'⟩) hsplit

theorem exec_serialize_eq (s : State) : exec .serialize s = .next ((s.putDigest (digestBytes s.hash)).putPhase Phase.done) := rfl

/-- The frame of SERIALIZE's updates, over any bytes, so that no comparison of states evaluates the digest. -/
theorem State.serialized_eq (s : State) (d : Vector Byte 32) (p : BitVec 4) :
    (s.putDigest d).putPhase p =
      { s with
        digest := ((s.putDigest d).putPhase p).digest
        phase := ((s.putDigest d).putPhase p).phase
        digestSet := ((s.putDigest d).putPhase p).digestSet } := rfl

/-- Settles O35: SERIALIZE is its two updates, and its bytes are those of the contract. -/
theorem serializeWritesTheDigest : Obligations.SerializeWritesTheDigest := by
  intro s
  have hlist := digestBytes_toList s.hash
  have hbyte (j : Fin 8) (m : Fin 4) (n : Fin 32) (hn : n.val = 4 * j.val + m.val) :=
    digestBytes_toNat s.hash m.isLt hn
  refine ⟨_, exec_serialize_eq s, ?_⟩
  generalize digestBytes s.hash = d at hlist hbyte
  exact ⟨hlist, hbyte, rfl, rfl, s.serialized_eq d Phase.done⟩

/-! ### What may change DIGEST -/

/-- R80: SERIALIZE is the operation of phase SER. -/
theorem phase_of_decode_serialize {p : BitVec 4} (h : decode (.op p) = .ok .serialize) : p = Phase.ser := by
  obtain ⟨_, henc | ⟨hnocmd, _⟩⟩ := decodeAndEncodeAreInverse.2 _ _ h
  · injection henc with hp; exact hp.symm
  · cases hnocmd

/-- R81: no command is SERIALIZE. -/
theorem decode_cmd_ne_serialize (c : BitVec 2) (l : BitVec 64) : decode (.cmd c l) ≠ .ok .serialize := by
  intro h
  obtain ⟨_, henc | ⟨hnocmd, _⟩⟩ := decodeAndEncodeAreInverse.2 _ _ h
  · cases henc
  · cases hnocmd

/-- R36, R172: an instruction that changes DIGEST is SERIALIZE, which ends in DONE. -/
theorem exec_digest_ne {i : Instr} {s t : State} (h : exec i s = .next t) (hd : t.digest ≠ s.digest) :
    i = .serialize ∧ t.phase = Phase.done := by
  obtain ⟨_, _, _, _, _, _, _, hdigest, _⟩ := registersChangeOnlyUnderTheirWriters i s t h
  by_cases hi : i = .serialize
  · subst hi
    rw [exec_serialize_eq] at h
    cases h
    exact ⟨rfl, rfl⟩
  · exact absurd (hdigest hi).1 hd

/-- The engine's operation changes DIGEST only from SER to DONE. -/
theorem phases_of_exec_digest_ne {i : Instr} {s t : State} {p : BitVec 4} (hi : decode (.op p) = .ok i)
    (h : exec i s = .next t) (hd : t.digest ≠ s.digest) : p = Phase.ser ∧ t.phase = Phase.done := by
  obtain ⟨rfl, hdone⟩ := exec_digest_ne h hd
  exact ⟨phase_of_decode_serialize hi, hdone⟩

/-- R184: a read gives the host a copy. -/
@[simp] theorem readDigest_digest (s : State) : (readDigest s).digest = s.digest := by
  rw [readDigest]; split <;> rfl

/-- Settles O46, by the moves a step can make: the engine's operation, run from an empty script or from the script's head, is SERIALIZE, a
command is not, and of the other moves only reset writes DIGEST. -/
theorem digestChangesOnlyAtSerializeOrReset : Obligations.DigestChangesOnlyAtSerializeOrReset := by
  intro s t h hd
  obtain ⟨i, hts, hi, ht⟩ | ⟨i, rest, hts, hi, ht⟩ | ⟨i, c, l, rest, hts, hi, ht⟩ | ⟨rest, hts, rfl⟩ | ⟨rest, hts, rfl⟩ |
    ⟨v, rest, hts, rfl⟩ | ⟨c, rest, hts, rfl⟩ | ⟨j, b, rest, hts, hfree, rfl⟩ := step_cases h
  · obtain ⟨hser, hdone⟩ := phases_of_exec_digest_ne hi ht hd
    exact .inl ⟨hser, hdone, .inl hts⟩
  · obtain ⟨hser, hdone⟩ := phases_of_exec_digest_ne hi ht hd
    exact .inl ⟨hser, hdone, .inr ⟨rest, hts⟩⟩
  · obtain ⟨rfl, _⟩ := exec_digest_ne ht hd
    exact absurd hi (decode_cmd_ne_serialize c l)
  · exact absurd rfl hd
  · exact absurd (readDigest_digest _) hd
  · exact absurd rfl hd
  · exact .inr ⟨c, rest, hts, rfl⟩
  · exact absurd rfl hd

end Sys2Proof.Machine
end

section
/-! The host and sequencing family (46_host_and_sequencing.md): the quiescent operations, START and the port reads (R180 to R185), the
transition table (R186), the contract Digest (R187), and the transaction as a whole (R188, R189, R192, R195, R196). -/

namespace Sys2Proof.Machine

/-! ### Commands, port moves and quiescent phases -/

/-- Settles O27: INITH is its three updates. -/
theorem inithLoadsTheInitialHash : Obligations.InithLoadsTheInitialHash := fun _ => ⟨rfl, rfl⟩

theorem execStart_accepted {s : State} {len : Nat} (hp : s.phase = Phase.idle ∨ s.phase = Phase.done) (hlen : len ≤ Config.maxLen) :
    execStart len s = .next ((s.putLen (BitVec.ofNat 64 len)).putPhase Phase.pad) :=
  (if_pos ((startPhase_iff _).2 hp)).trans (if_neg (Nat.not_lt.2 hlen))

theorem execStart_overflow {s : State} {len : Nat} (hp : s.phase = Phase.idle ∨ s.phase = Phase.done) (hlen : Config.maxLen < len) :
    execStart len s = .next (raiseFault .lenOverflow s) :=
  (if_pos ((startPhase_iff _).2 hp)).trans (if_pos hlen)

theorem execStart_not_accepted {s : State} (len : Nat) (hp : ¬ (s.phase = Phase.idle ∨ s.phase = Phase.done)) :
    execStart len s = .refused .startNotAccepted :=
  if_neg fun h => hp ((startPhase_iff _).1 h)

/-- Settles O36: the three outcomes of START; a length up to MAX_LEN fits its register. -/
theorem startAcceptsOrFaults : Obligations.StartAcceptsOrFaults := by
  refine ⟨fun s len hp hlen => ⟨_, execStart_accepted hp hlen, ?_, rfl, rfl⟩, fun s len hp hlen => execStart_overflow hp hlen,
    fun s len hidle hdone => execStart_not_accepted len (not_or.2 ⟨hidle, hdone⟩)⟩
  exact (BitVec.toNat_ofNat len 64).trans (Nat.mod_eq_of_lt (by omega))

/-- Settles O25: a NOCMD turn runs NOCMD on the state whose script it has been taken from. -/
theorem nocmdChangesNothing : Obligations.NocmdChangesNothing :=
  ⟨fun _ => rfl, fun s l rest hs hts => stepRunsTheDecodedInstruction.2.2 s .nocmd 0 l rest hs hts rfl⟩

/-- Settles O24: the engine's turn in a quiescent phase runs that phase's WAIT. -/
theorem waitOperationsChangeNothing : Obligations.WaitOperationsChangeNothing := by
  have engine := stepRunsTheDecodedInstruction.1
  refine ⟨fun _ => ⟨rfl, rfl, rfl⟩, fun s hf hts hp => ?_⟩
  obtain hp | hp | hp := hp
  · exact engine s .waitIdle hf hts (by rw [hp]; rfl)
  · exact engine s .waitDone hf hts (by rw [hp]; rfl)
  · exact engine s .waitFault hf hts (by rw [hp]; rfl)

/-- R33: the bits of STATUS, for each of the 64 pairs of a PHASE and an FCODE code. -/
theorem status_toNat (s : State) : s.status.toNat = (if s.phase = 0x9 then 1 else 0) * 128 +
    (if 0x1 ≤ s.phase.toNat ∧ s.phase.toNat ≤ 0x8 then 1 else 0) * 64 + s.fcode.toNat * 16 + s.phase.toNat := by
  have bits : ∀ (p : BitVec 4) (c : BitVec 2),
      (BitVec.ofBool (donePhase p) ++ BitVec.ofBool (busyPhase p) ++ c ++ p).toNat = (if p = 0x9 then 1 else 0) * 128 +
        (if 0x1 ≤ p.toNat ∧ p.toNat ≤ 0x8 then 1 else 0) * 64 + c.toNat * 16 + p.toNat := by decide
  exact bits s.phase s.fcode

/-- Settles O40: the two moves are those of the state whose script they have been taken from. -/
theorem readStatusReturnsTheByte : Obligations.ReadStatusReturnsTheByte :=
  ⟨status_toNat, fun _ _ hs hts => step_turn hs.stuck_none hts, fun _ _ _ hs hts => step_turn hs.stuck_none hts⟩

theorem readDigest_of_set {s : State} (h : s.digestSet = true) : readDigest s = s.putReply (.digest s.digest) := if_pos h

theorem readDigest_of_unset {s : State} (h : s.digestSet = false) :
    readDigest s = (s.putReply (.digest (Config.unspecDigest s.draws))).putDraw := by
  rw [readDigest, h]; rfl

/-- Settles O41: READ DIGEST replies with the register or, before the first SERIALIZE, with a free value that it counts. -/
theorem readDigestReturnsTheRegister : Obligations.ReadDigestReturnsTheRegister := by
  refine ⟨fun s rest hs hts hset => ?_, fun s rest hs hts hset => ?_⟩
  · exact (step_turn hs.stuck_none hts).trans (congrArg _ (readDigest_of_set (s := s.putTurns rest) hset))
  · exact ⟨_, _, (step_turn hs.stuck_none hts).trans (congrArg _ (readDigest_of_unset (s := s.putTurns rest) hset))⟩

/-! ### Digest -/

/-- R155, R187: the hash state chained from IV over the first n blocks of a byte sequence. -/
def chainedHash (pm : List Byte) (n : Nat) : Vector Word 8 := ((List.range n).map (splitBlock pm)).foldl compress iv

theorem chainedHash_succ (pm : List Byte) (n : Nat) : chainedHash pm (n + 1) = compress (chainedHash pm n) (splitBlock pm n) := by
  simp only [chainedHash, List.range_succ, List.map_append, List.foldl_append, List.map_cons, List.map_nil, List.foldl_cons,
    List.foldl_nil]

theorem digestOf_eq {msg : List Byte} (h : msg.length ≤ Config.maxLen) :
    digestOf msg = .ok (serialize (chainedHash (padMessage msg) (blockCount msg.length))) := by
  rw [digestOf, if_pos h, splitBlocks_padMessage]
  rfl

/-- Settles O23: the chain is the fold of Digest over the blocks of Split(Pad(msg)). -/
theorem digestIsTotalUpToMaxLen : Obligations.DigestIsTotalUpToMaxLen := by
  refine ⟨fun msg h => ⟨_, chainedHash (padMessage msg), splitBlocks_padMessage msg, rfl, fun i hi => ?_, ?_, serialize_length _⟩,
    fun msg h => if_neg (Nat.not_le.2 h)⟩
  · rw [List.length_map, List.length_range] at hi
    rw [chainedHash_succ, getD_map_range _ [] hi]
  · rw [List.length_map, List.length_range, digestOf_eq h]

/-! ### The transition table

R186 as a relation, one constructor a row: the phase, the condition, and the updates, with only the values of the counters and of PHASE
written out where the row gives them. -/

/-- A busy engine's step from the first state leads to the second (R186). -/
inductive Transition (s : State) : State → Prop where
  | pad : s.phase = Phase.pad →
      Transition s (((s.putBitlen (bitlenOf s.len)).putNblk (nblkOf s.len)).putPhase Phase.inith)
  | inith : s.phase = Phase.inith → Transition s (((s.putHash iv).putBlk 0).putPhase Phase.load)
  | loadblk (w : Vector Word 64) : s.phase = Phase.load → Transition s (((s.putW w).putT 16).putPhase Phase.expand)
  | expand (w : Vector Word 64) : s.phase = Phase.expand → s.t.toNat < 63 → Transition s ((s.putW w).putT (s.t + 1))
  | expandLast (w : Vector Word 64) : s.phase = Phase.expand → s.t.toNat = 63 → Transition s ((s.putW w).putPhase Phase.initwr)
  | initwr (r : Work) : s.phase = Phase.initwr → Transition s (((s.putWork r).putT 0).putPhase Phase.round)
  | round (r : Work) : s.phase = Phase.round → s.t.toNat < 63 → Transition s ((s.putWork r).putT (s.t + 1))
  | roundLast (r : Work) : s.phase = Phase.round → s.t.toNat = 63 → Transition s ((s.putWork r).putPhase Phase.feed)
  | feedfwd (h : Vector Word 8) : s.phase = Phase.feed → s.blk.toNat + 1 ≠ s.nblk.toNat →
      Transition s (((s.putHash h).putBlk (nextBlk s.blk s.nblk)).putPhase Phase.load)
  | feedfwdLast (h : Vector Word 8) : s.phase = Phase.feed → s.blk.toNat + 1 = s.nblk.toNat →
      Transition s ((s.putHash h).putPhase Phase.ser)
  | serialize (d : Vector Byte 32) : s.phase = Phase.ser → Transition s ((s.putDigest d).putPhase Phase.done)

/-- R80: a PHASE code is the encoding of the operation it names. -/
theorem encode_of_decode_op {p : BitVec 4} {i : Instr} (h : decode (.op p) = .ok i) : encode i = .op p := by
  obtain ⟨_, henc | ⟨_, l, hcmd⟩⟩ := decodeAndEncodeAreInverse.2 _ _ h
  · exact henc
  · cases hcmd

/-- R185, R186: the engine's step is a row of the table, or one of the three WAITs, which change nothing. -/
theorem engineStep_cases {s t : State} (h : engineStep s = .next t) :
    Transition s t ∨ ((s.phase = Phase.idle ∨ s.phase = Phase.done ∨ s.phase = Phase.fault) ∧ t = s) := by
  obtain ⟨i, hi, h⟩ := runCode_next h
  have hp := encode_of_decode_op hi
  have at_code {c : BitVec 4} (hc : encode i = .op c) : s.phase = c := Code.op.inj (hp.symm.trans hc)
  cases i with
  | nocmd | start len => cases hp
  | waitIdle => cases h; exact .inr ⟨.inl (at_code rfl), rfl⟩
  | waitDone => cases h; exact .inr ⟨.inr (.inl (at_code rfl)), rfl⟩
  | waitFault => cases h; exact .inr ⟨.inr (.inr (at_code rfl)), rfl⟩
  | pad => cases h; exact .inl (.pad (at_code rfl))
  | inith => cases h; exact .inl (.inith (at_code rfl))
  | initwr => cases h; exact .inl (.initwr _ (at_code rfl))
  | serialize => cases h; exact .inl (.serialize _ (at_code rfl))
  | loadblk =>
    rw [exec_loadblk] at h
    obtain ⟨ws, _, _, rfl⟩ := execLoadblk_next h
    exact .inl (.loadblk _ (at_code rfl))
  | expand =>
    obtain ⟨_, rfl⟩ := execExpand_next h
    obtain ⟨hT, e⟩ | ⟨hT, e, _⟩ := countOr_cases Phase.initwr (s.putW (expandedW s.w s.t))
    · exact .inl (e ▸ .expandLast _ (at_code rfl) hT)
    · exact .inl (e ▸ .expand _ (at_code rfl) hT)
  | round =>
    rw [exec_round_eq] at h
    cases h
    obtain ⟨hT, e⟩ | ⟨hT, e, _⟩ := countOr_cases Phase.feed (s.putWork s.roundedWork)
    · exact .inl (e ▸ .roundLast _ (at_code rfl) hT)
    · exact .inl (e ▸ .round _ (at_code rfl) hT)
  | feedfwd =>
    obtain ⟨hb, e⟩ | ⟨hb, e⟩ := execFeedfwd_cases s
    · cases e.symm.trans h; exact .inl (.feedfwdLast _ (at_code rfl) hb)
    · cases e.symm.trans h; exact .inl (.feedfwd _ (at_code rfl) hb)

/-- The registers that no row writes. -/
theorem Transition.frame {s t : State} (h : Transition s t) :
    t.len = s.len ∧ t.fcode = s.fcode ∧ t.msg = s.msg ∧ t.turns = s.turns := by
  cases h <;> exact ⟨rfl, rfl, rfl, rfl⟩

/-! ### A running transaction -/

/-- The facts of a busy state of which R186 speaks, FCODE left open: the busy phases, the geometry PAD leaves, and the ranges of BLK and T
in the phases that use them. -/
structure State.Running (s : State) : Prop where
  busy : 1 ≤ s.phase.toNat ∧ s.phase.toNat ≤ 8
  fcode_legal : s.fcode ≠ 3
  len_bound : s.len.toNat ≤ Config.maxLen
  geometry : 2 ≤ s.phase.toNat → s.bitlen.toNat = 8 * s.len.toNat ∧ s.nblk.toNat = blockCount s.len.toNat
  blk_bound : 3 ≤ s.phase.toNat ∧ s.phase.toNat ≤ 7 → s.blk.toNat < s.nblk.toNat
  t_bound : s.phase = Phase.expand → 16 ≤ s.t.toNat

theorem State.Inv.running {s : State} (h : s.Inv) (hb : 1 ≤ s.phase.toNat ∧ s.phase.toNat ≤ 8) : s.Running where
  busy := hb
  fcode_legal := h.codesLegal.fcode_legal
  len_bound := h.len_bound ((busyPhase_iff _).2 hb)
  geometry h2 := h.geometry ⟨h2, hb.2⟩
  blk_bound := h.blk_bound
  t_bound := h.t_bound

theorem State.Running.codesLegal {s : State} (h : s.Running) : s.CodesLegal := ⟨.inl (h.busy.2.trans (by decide)), h.fcode_legal⟩

/-- The eight busy phases. -/
theorem busy_phase_cases {p : BitVec 4} (h : 1 ≤ p.toNat ∧ p.toNat ≤ 8) :
    p = Phase.pad ∨ p = Phase.inith ∨ p = Phase.load ∨ p = Phase.expand ∨ p = Phase.initwr ∨ p = Phase.round ∨ p = Phase.feed ∨
      p = Phase.ser := by
  revert p; decide

/-- R195: a busy engine is never stuck: LOADBLK has a block to load, EXPAND an index to compute, and no other operation can fail. -/
theorem State.Running.engineStep_next {s : State} (h : s.Running) : ∃ t, engineStep s = .next t := by
  have run {i : Instr} (hi : decode (.op s.phase) = .ok i) : engineStep s = exec i s := engineStep_of_decode hi
  obtain hp | hp | hp | hp | hp | hp | hp | hp := busy_phase_cases h.busy
  · exact ⟨_, run (i := .pad) (by rw [hp]; rfl)⟩
  · exact ⟨_, run (i := .inith) (by rw [hp]; rfl)⟩
  · obtain ⟨t, e⟩ := (loadblkCompletesExactlyBelowNblk s).1 (h.blk_bound (by rw [hp]; decide))
    exact ⟨t, (run (by rw [hp]; rfl)).trans e⟩
  · exact ⟨_, (run (by rw [hp]; rfl)).trans (exec_expand_of_le (h.t_bound hp))⟩
  · exact ⟨_, run (i := .initwr) (by rw [hp]; rfl)⟩
  · exact ⟨_, run (i := .round) (by rw [hp]; rfl)⟩
  · obtain ⟨_, _, e, _⟩ := exec_feedfwd_eq (h.blk_bound (by rw [hp]; decide))
    exact ⟨_, (run (by rw [hp]; rfl)).trans e⟩
  · exact ⟨_, run (i := .serialize) (by rw [hp]; rfl)⟩

theorem not_busy_of_wait {p : BitVec 4} (h : p = Phase.idle ∨ p = Phase.done ∨ p = Phase.fault) : ¬ (1 ≤ p.toNat ∧ p.toNat ≤ 8) := by
  revert p; decide

/-- R186, R195: with the engine to move, a busy state takes a row of the table. -/
theorem State.Running.step_next {s : State} (h : s.Running) (hts : s.turns = []) : ∃ t, step s = .next t ∧ Transition s t := by
  obtain ⟨t, e⟩ := h.engineStep_next
  refine ⟨t, (step_engine h.codesLegal.stuck_none hts).trans e, ?_⟩
  obtain htr | ⟨hwait, _⟩ := engineStep_cases e
  · exact htr
  · exact absurd h.busy (not_busy_of_wait hwait)

/-- Inside a block LEN, FCODE and what PAD has left stay, so the facts of a running state are those of PHASE, BLK and T. -/
theorem State.Running.within_block {s t : State} (hs : s.Running) (hp : 3 ≤ s.phase.toNat) (hlen : t.len = s.len)
    (hf : t.fcode = s.fcode) (hbit : t.bitlen = s.bitlen) (hn : t.nblk = s.nblk) (hp' : 3 ≤ t.phase.toNat ∧ t.phase.toNat ≤ 8)
    (hblk : t.phase.toNat ≤ 7 → t.blk.toNat < s.nblk.toNat) (hT : t.phase = Phase.expand → 16 ≤ t.t.toNat) : t.Running where
  busy := ⟨by omega, hp'.2⟩
  fcode_legal := hf ▸ hs.fcode_legal
  len_bound := hlen ▸ hs.len_bound
  geometry _ := by rw [hbit, hn, hlen]; exact hs.geometry (by omega)
  blk_bound h := hn ▸ hblk h.2
  t_bound := hT

/-- T + 1 where T is not at its end. -/
theorem State.t_succ_toNat {s : State} (h : s.t.toNat < 63) : (s.t + 1).toNat = s.t.toNat + 1 := (countOr_more s.phase h).2

/-- R24 to R28: a row of the table leads on in the transaction or, from SER, to DONE with a digest. -/
theorem Transition.running_or_done {s t : State} (h : Transition s t) (hs : s.Running) :
    t.Running ∨ (s.phase = Phase.ser ∧ t.phase = Phase.done ∧ t.digestSet = true) := by
  have hlen := hs.len_bound
  cases h with
  | serialize d hp => exact .inr ⟨hp, rfl, rfl⟩
  | pad hp =>
    exact .inl ⟨by simp, hs.fcode_legal, hlen, fun _ => ⟨bitlenOf_toNat hlen, nblkOf_toNat hlen⟩, by simp, by simp⟩
  | inith hp =>
    have geometry := hs.geometry (by rw [hp]; decide)
    have first : 0 < s.nblk.toNat := geometry.2 ▸ blockCount_pos _
    exact .inl ⟨by simp, hs.fcode_legal, hlen, fun _ => geometry, fun _ => first, by simp⟩
  | loadblk w hp =>
    have blk := hs.blk_bound (by rw [hp]; decide)
    exact .inl (hs.within_block (by rw [hp]; decide) rfl rfl rfl rfl (by simp) (fun _ => blk) (fun _ => le_rfl))
  | expand w hp hT =>
    have blk := hs.blk_bound (by rw [hp]; decide)
    have next : 16 ≤ (s.t + 1).toNat := by rw [s.t_succ_toNat hT]; exact (hs.t_bound hp).trans (Nat.le_succ _)
    exact .inl (hs.within_block (by rw [hp]; decide) rfl rfl rfl rfl (by simp [hp]) (fun _ => blk) (fun _ => next))
  | round r hp hT =>
    have blk := hs.blk_bound (by rw [hp]; decide)
    exact .inl (hs.within_block (by rw [hp]; decide) rfl rfl rfl rfl (by simp [hp]) (fun _ => blk) (by simp [hp]))
  | expandLast _ hp | initwr _ hp | roundLast _ hp =>
    have blk := hs.blk_bound (by rw [hp]; decide)
    exact .inl (hs.within_block (by rw [hp]; decide) rfl rfl rfl rfl (by simp) (fun _ => blk) (by simp))
  | feedfwd h hp hmore =>
    have blk := hs.blk_bound (by rw [hp]; decide)
    have next : (nextBlk s.blk s.nblk).toNat < s.nblk.toNat := by rw [nextBlk_toNat blk]; omega
    exact .inl (hs.within_block (by rw [hp]; decide) rfl rfl rfl rfl (by simp) (fun _ => next) (by simp))
  | feedfwdLast h hp hlast =>
    exact .inl (hs.within_block (by rw [hp]; decide) rfl rfl rfl rfl (by simp) (by simp) (by simp))

/-- Settles O44: the busy engine takes a row of the table, and each row gives PHASE, BLK and T in its own phase. -/
theorem transitionTable : Obligations.TransitionTable := by
  intro s h hts hlo hhi
  have hs := h.running ⟨hlo, hhi⟩
  obtain ⟨t, e, htr⟩ := hs.step_next hts
  refine ⟨t, e, ?_⟩
  cases htr with
  | pad hp | inith hp | loadblk _ hp | initwr _ hp | serialize _ hp => simp [hp]
  | expand _ hp hT | round _ hp hT =>
    simpa [hp, hT.ne, -BitVec.toNat_add] using fun _ => s.t_succ_toNat hT
  | expandLast _ hp hT | roundLast _ hp hT => simp [hp, hT]
  | feedfwd _ hp hmore =>
    have blk := nextBlk_toNat (hs.blk_bound (by rw [hp]; decide))
    simp [hp, hmore, blk]
  | feedfwdLast _ hp hlast => simp [hp, hlast]

/-! ### The operations to come

The trace that opsLeft counts: each row of the table takes its first operation off. -/

/-- n blocks and SERIALIZE (R86). -/
def blocksAndSerialize (n : Nat) : List Instr := (List.replicate n blockOps).flatten ++ [.serialize]

theorem digestOps_eq (n : Nat) : digestOps n = .pad :: .inith :: blocksAndSerialize n := rfl

theorem blocksAndSerialize_zero : blocksAndSerialize 0 = [.serialize] := rfl

theorem blocksAndSerialize_succ (n : Nat) : blocksAndSerialize (n + 1) = blockOps ++ blocksAndSerialize n := by
  rw [blocksAndSerialize, List.replicate_succ, List.flatten_cons, List.append_assoc, blocksAndSerialize]

theorem blockOps_length : blockOps.length = 115 := rfl

theorem compressOps_length : compressOps.length = 66 := rfl

theorem blocksAndSerialize_length (n : Nat) : (blocksAndSerialize n).length = 115 * n + 1 := by
  induction n with
  | zero => rfl
  | succ n ih => rw [blocksAndSerialize_succ, List.length_append, ih, blockOps_length]; omega

/-- The trace of the operations a transaction has left (R86, R186). -/
def opsToCome (s : State) : List Instr :=
  let later := blocksAndSerialize (s.nblk.toNat - s.blk.toNat - 1)
  match s.phase.toNat with
  | 0x1 => digestOps (blockCount s.len.toNat)
  | 0x2 => .inith :: blocksAndSerialize s.nblk.toNat
  | 0x3 => blockOps ++ later
  | 0x4 => List.replicate (64 - s.t.toNat) .expand ++ (compressOps ++ later)
  | 0x5 => compressOps ++ later
  | 0x6 => List.replicate (64 - s.t.toNat) .round ++ .feedfwd :: later
  | 0x7 => .feedfwd :: later
  | 0x8 => [.serialize]
  | _ => []

/-- R188, R195, R251. -/
theorem opsToCome_length (s : State) : (opsToCome s).length = opsLeft s := by
  rw [opsToCome, opsLeft]
  split <;> simp_all only [digestOps_eq, List.length_append, List.length_cons, List.length_nil, blocksAndSerialize_length,
    blockOps_length, compressOps_length, List.length_replicate] <;> omega

/-- The counted operation at T, and those for T + 1 to 63. -/
theorem replicate_from_t (i : Instr) {s : State} (h : s.t.toNat < 63) :
    List.replicate (64 - s.t.toNat) i = i :: List.replicate (64 - (s.t + 1).toNat) i := by
  rw [s.t_succ_toNat h, ← List.replicate_succ]
  congr 1
  omega

/-- R86, R186: a row of the table runs the first of the operations to come and leaves the others. -/
theorem Transition.opsToCome_eq {s t : State} (h : Transition s t) (hs : s.Running) :
    ∃ i, decode (.op s.phase) = .ok i ∧ opsToCome s = i :: opsToCome t := by
  cases h with
  | pad hp => exact ⟨.pad, by rw [hp]; rfl, by simp [opsToCome, hp, digestOps_eq, nblkOf_toNat hs.len_bound]⟩
  | inith hp =>
    obtain ⟨n, hn⟩ : ∃ n, s.nblk.toNat = n + 1 := ⟨_, (hs.geometry (by rw [hp]; decide)).2⟩
    exact ⟨.inith, by rw [hp]; rfl, by simp [opsToCome, hp, hn, blocksAndSerialize_succ]⟩
  | loadblk w hp => exact ⟨.loadblk, by rw [hp]; rfl, by simp [opsToCome, hp, blockOps, scheduleOps]⟩
  | expand w hp hT => exact ⟨.expand, by rw [hp]; rfl, by simp [opsToCome, hp, replicate_from_t _ hT]⟩
  | expandLast w hp hT => exact ⟨.expand, by rw [hp]; rfl, by simp [opsToCome, hp, hT]⟩
  | initwr r hp => exact ⟨.initwr, by rw [hp]; rfl, by simp [opsToCome, hp, compressOps]⟩
  | round r hp hT => exact ⟨.round, by rw [hp]; rfl, by simp [opsToCome, hp, replicate_from_t _ hT]⟩
  | roundLast r hp hT => exact ⟨.round, by rw [hp]; rfl, by simp [opsToCome, hp, hT]⟩
  | feedfwd h hp hmore =>
    have blk := hs.blk_bound (by rw [hp]; decide)
    obtain ⟨n, hn, hn'⟩ : ∃ n, s.nblk.toNat - s.blk.toNat - 1 = n + 1 ∧ s.nblk.toNat - (s.blk.toNat + 1) - 1 = n :=
      ⟨_, by omega, rfl⟩
    exact ⟨.feedfwd, by rw [hp]; rfl, by simp [opsToCome, hp, hn, hn', nextBlk_toNat blk, blocksAndSerialize_succ]⟩
  | feedfwdLast h hp hlast =>
    exact ⟨.feedfwd, by rw [hp]; rfl, by simp [opsToCome, hp, ← hlast, blocksAndSerialize_zero]⟩
  | serialize d hp => exact ⟨.serialize, by rw [hp]; rfl, by simp [opsToCome, hp]⟩

theorem opsToCome_pad {s : State} (hp : s.phase = Phase.pad) : opsToCome s = digestOps (blockCount s.len.toNat) := by
  rw [opsToCome, hp]; rfl

theorem opsToCome_done {s : State} (hp : s.phase = Phase.done) : opsToCome s = [] := by
  rw [opsToCome, hp]; rfl

/-- Settles O51: the operations to come are one fewer after a row of the table, and in phase PAD they are the trace of DIGEST. -/
theorem busyEngineCountsDown : Obligations.BusyEngineCountsDown := by
  refine ⟨fun s h hts hlo hhi => ?_, fun s hp => ?_⟩
  · have hs := h.running ⟨hlo, hhi⟩
    obtain ⟨t, e, htr⟩ := hs.step_next hts
    obtain ⟨_, _, hops⟩ := htr.opsToCome_eq hs
    exact ⟨t, e, by rw [← opsToCome_length s, hops, List.length_cons, opsToCome_length]⟩
  · have left : opsLeft s = 3 + 115 * blockCount s.len.toNat := by rw [opsLeft, hp]; rfl
    exact ⟨left, by rw [← opsToCome_pad hp, opsToCome_length]⟩

/-- R86, R186: with no host moves, PHASE names the operations to come one after another. -/
theorem State.Running.run_opsToCome {n : Nat} {s : State} {i : Instr} (hs : s.Running) (hts : s.turns = [])
    (hi : (opsToCome s)[n]? = some i) :
    ∃ t : State, Sys2Proof.core.run n s = .next t ∧ t.turns = [] ∧ decode (.op t.phase) = .ok i := by
  induction n generalizing s with
  | zero =>
    obtain ⟨_, _, htr⟩ := hs.step_next hts
    obtain ⟨j, hj, hops⟩ := htr.opsToCome_eq hs
    rw [hops, List.getElem?_cons_zero, Option.some_inj] at hi
    exact ⟨s, rfl, hts, hi ▸ hj⟩
  | succ n ih =>
    obtain ⟨s', e, htr⟩ := hs.step_next hts
    obtain ⟨_, _, hops⟩ := htr.opsToCome_eq hs
    rw [hops, List.getElem?_cons_succ] at hi
    obtain ⟨_, _, _, hts'⟩ := htr.frame
    obtain hs' | ⟨_, hdone, _⟩ := htr.running_or_done hs
    · obtain ⟨t, hrun, ht⟩ := ih hs' (hts'.trans hts) hi
      exact ⟨t, (run_succ n e).trans hrun, ht⟩
    · rw [opsToCome_done hdone] at hi
      cases hi

/-- A state in phase PAD runs, whatever the registers that PAD and INITH write hold. -/
theorem State.running_of_pad {s : State} (hp : s.phase = Phase.pad) (hf : s.fcode ≠ 3) (hlen : s.len.toNat ≤ Config.maxLen) :
    s.Running := by
  refine ⟨?_, hf, hlen, ?_, ?_, ?_⟩ <;> simp [hp]

/-- Settles O52: in phase PAD the operations to come are the trace of DIGEST. -/
theorem transactionRunsTheDigestTrace : Obligations.TransactionRunsTheDigestTrace := by
  intro s n i hf hts hp hlen hi
  exact (State.running_of_pad hp hf hlen).run_opsToCome hts (opsToCome_pad hp ▸ hi)

/-! ### The host's side of a state

The message memory, the script, the replies and the counter of free values: what a move of the host that is no command can change. -/

/-- The registers of the first state with the host's side of the second. -/
def State.withHost (s u : State) : State := { s with msg := u.msg, turns := u.turns, replies := u.replies, draws := u.draws }

/-- R186: a legal state stays legal under any host's side whose message memory is in canonical form. -/
theorem State.Inv.withHost {s u : State} (h : s.Inv) (hu : u.msg.wf = true) : (s.withHost u).Inv where
  phase_legal := h.phase_legal
  fcode_legal := h.fcode_legal
  fault_code := h.fault_code
  len_bound := h.len_bound
  geometry := h.geometry
  blk_bound := h.blk_bound
  t_bound := h.t_bound
  digest_ready := h.digest_ready
  msg_wf := hu

theorem State.Inv.putTurns {s : State} (h : s.Inv) (ts : List Turn) : (s.putTurns ts).Inv :=
  h.withHost (u := s.putTurns ts) h.msg_wf

theorem State.putTurns_tail_of_nil {s : State} (h : s.turns = []) : s.putTurns s.turns.tail = s := by
  rw [h, List.tail_nil, ← h]; rfl

/-- A message memory that a move of the host may leave: as it was, or written at one index outside the running message (R52). -/
def State.Spares (s : State) (m : Memory) : Prop :=
  m = s.msg ∨ ∃ (j : BitVec 61) (b : Byte), m = s.msg.write j.toNat b ∧ ¬ (busyPhase s.phase = true ∧ j.toNat < s.len.toNat)

/-- What a step that goes on can have done, by who moves: the engine, a START, a reset, or the host on its own side, where a write spares
the running message. -/
theorem step_moves {s t : State} (h : step s = .next t) :
    ((s.turns = [] ∨ ∃ rest, s.turns = .engine :: rest) ∧ engineStep (s.putTurns s.turns.tail) = .next t) ∨
    (∃ l rest, s.turns = .command 1 l :: rest ∧ execStart l.toNat (s.putTurns rest) = .next t) ∨
    (∃ c rest, s.turns = .reset c :: rest ∧ t = resetAction (s.putTurns rest)) ∨
    (t = s.withHost t ∧ s.Spares t.msg) := by
  obtain ⟨i, hts, hi, ht⟩ | ⟨i, rest, hts, hi, ht⟩ | ⟨i, c, l, rest, hts, hi, ht⟩ | ⟨rest, hts, rfl⟩ | ⟨rest, hts, rfl⟩ |
    ⟨v, rest, hts, rfl⟩ | ⟨c, rest, hts, rfl⟩ | ⟨j, b, rest, hts, hfree, rfl⟩ := step_cases h
  · exact .inl ⟨.inl hts, by rw [s.putTurns_tail_of_nil hts, engineStep_of_decode hi, ht]⟩
  · exact .inl ⟨.inr ⟨rest, hts⟩, by rw [hts, List.tail_cons, ← ht]; exact engineStep_of_decode (s := s.putTurns rest) hi⟩
  · rw [decode] at hi
    obtain ⟨rfl, e⟩ | ⟨rfl, e⟩ | ⟨_, e⟩ := decodeCmd_cases c l <;> cases e.symm.trans hi
    · cases ht; exact .inr (.inr (.inr ⟨rfl, .inl rfl⟩))
    · exact .inr (.inl ⟨l, rest, hts, ht⟩)
  · exact .inr (.inr (.inr ⟨rfl, .inl rfl⟩))
  · refine .inr (.inr (.inr ?_))
    rw [readDigest]
    split <;> exact ⟨rfl, .inl rfl⟩
  · exact .inr (.inr (.inr ⟨rfl, .inl rfl⟩))
  · exact .inr (.inr (.inl ⟨c, rest, hts, rfl⟩))
  · exact .inr (.inr (.inr ⟨rfl, .inr ⟨j, b, rfl, hfree⟩⟩))

/-! ### Legal states -/

/-- A busy phase is not that of a fault. -/
theorem phase_ne_fault_of_busy {p : BitVec 4} (h : 1 ≤ p.toNat ∧ p.toNat ≤ 8) : p ≠ Phase.fault :=
  fun hp => not_busy_of_wait (.inr (.inr hp)) h

/-- FCODE is 0 outside FAULT (R34). -/
theorem State.Inv.fcode_eq_zero {s : State} (h : s.Inv) (hp : s.phase ≠ Phase.fault) : s.fcode = 0 :=
  not_not.1 fun hf => hp (h.fault_code.2 hf)

/-- A running state with no fault code is legal. -/
theorem State.Running.inv {s : State} (h : s.Running) (hf : s.fcode = 0) (hmsg : s.msg.wf = true) : s.Inv where
  phase_legal := h.codesLegal.phase_legal
  fcode_legal := .inl hf
  fault_code := iff_of_false (phase_ne_fault_of_busy h.busy) (not_not.2 hf)
  len_bound _ := h.len_bound
  geometry hp := h.geometry hp.1
  blk_bound := h.blk_bound
  t_bound := h.t_bound
  digest_ready hp := absurd h.busy (by rw [hp]; decide)
  msg_wf := hmsg

/-- Outside the busy phases only the codes, DIGEST and the message memory are asked for. -/
theorem State.inv_of_not_busy {s : State} (hp : s.phase = Phase.idle ∨ s.phase = Phase.done ∨ s.phase = Phase.fault)
    (hf : s.fcode = 0 ∨ s.fcode = HwFault.lenOverflow.code) (hfault : s.phase = Phase.fault ↔ s.fcode ≠ 0)
    (hd : s.phase = Phase.done → s.digestSet = true) (hmsg : s.msg.wf = true) : s.Inv := by
  have quiet := not_busy_of_wait hp
  refine ⟨?_, hf, hfault, fun hb => ?_, fun hb => ?_, fun hb => ?_, fun he => ?_, hd, hmsg⟩
  · obtain hp | hp | hp := hp <;> rw [hp] <;> decide
  · exact absurd ((busyPhase_iff _).1 hb) quiet
  · exact absurd ⟨by omega, hb.2⟩ quiet
  · exact absurd ⟨by omega, by omega⟩ quiet
  · exact absurd (by rw [he]; decide) quiet

theorem Transition.busy {s t : State} (h : Transition s t) : 1 ≤ s.phase.toNat ∧ s.phase.toNat ≤ 8 := by
  cases h <;> simp [*]

/-- The engine keeps a state legal: a row of the table leads on in the transaction or to DONE, and a WAIT changes nothing. -/
theorem State.Inv.of_engineStep {s t : State} (h : s.Inv) (e : engineStep s = .next t) : t.Inv := by
  obtain htr | ⟨_, rfl⟩ := engineStep_cases e
  · obtain ⟨_, hf, hmsg, _⟩ := htr.frame
    have clear : t.fcode = 0 := hf.trans (h.fcode_eq_zero (phase_ne_fault_of_busy htr.busy))
    have wf : t.msg.wf = true := hmsg ▸ h.msg_wf
    obtain running | ⟨_, hdone, hset⟩ := htr.running_or_done (h.running htr.busy)
    · exact running.inv clear wf
    · exact State.inv_of_not_busy (.inr (.inl hdone)) (.inl clear) (by rw [hdone, clear]; decide) (fun _ => hset) wf
  · exact h

/-- START keeps a state legal: it begins a transaction of a legal length, or faults. -/
theorem State.Inv.of_execStart {s t : State} {len : Nat} (h : s.Inv) (e : execStart len s = .next t) : t.Inv := by
  obtain ⟨hp, hmax, e'⟩ | ⟨_, _, e'⟩ | ⟨_, _, e'⟩ := execStart_cases len s <;> cases e'.symm.trans e
  · have clear : s.fcode = 0 := h.fcode_eq_zero (by obtain hp | hp := hp <;> rw [hp] <;> decide)
    have hlen : (BitVec.ofNat 64 len).toNat ≤ Config.maxLen := (Nat.mod_le _ _).trans hmax
    have running := State.running_of_pad (s := (s.putLen (BitVec.ofNat 64 len)).putPhase Phase.pad) rfl h.codesLegal.fcode_legal hlen
    exact running.inv clear h.msg_wf
  · exact State.inv_of_not_busy (.inr (.inr rfl)) (.inr rfl) (iff_of_true rfl (by simp [HwFault.code])) (by simp) h.msg_wf

theorem State.Inv.resetAction {s : State} (h : s.Inv) : (resetAction s).Inv :=
  State.inv_of_not_busy (.inl rfl) (.inl rfl) (by simp) (by simp) h.msg_wf

/-- Settles O48: the reset state is idle, with no fault code and an empty message memory. -/
theorem resetStateIsLegal : Obligations.ResetStateIsLegal :=
  State.inv_of_not_busy (.inl rfl) (.inl rfl) (by decide) (by decide) rfl

/-- Settles O49, by who moves: the engine, a START, a reset, or the host on its own side, whose writes keep the canonical form. -/
theorem everyStepKeepsTheStateLegal : Obligations.EveryStepKeepsTheStateLegal := by
  intro s t h e
  obtain ⟨_, he⟩ | ⟨_, _, _, he⟩ | ⟨_, _, _, rfl⟩ | ⟨ht, hmsg⟩ := step_moves e
  · exact (h.putTurns _).of_engineStep he
  · exact (h.putTurns _).of_execStart he
  · exact (h.putTurns _).resetAction
  · rw [ht]
    refine h.withHost ?_
    obtain same | ⟨j, b, written, _⟩ := hmsg
    · rw [same]; exact h.msg_wf
    · rw [written]; exact Memory.write_wf h.msg_wf (Memory.index_lt_size j)

/-! ### No abort but reset -/

/-- A write at or above LEN leaves the message. -/
theorem Memory.message_write_above (m : Memory) {len a : Nat} (b : Byte) (h : len ≤ a) :
    (m.write a b).message len = m.message len :=
  List.map_congr_left fun x hx => m.read_write_ne b (by have := List.mem_range.1 hx; omega)

/-- R196: the engine's own step stays in the transaction or ends it in DONE, from SER. -/
theorem Transition.phase_range {s t : State} (h : Transition s t) (hs : s.Running) :
    1 ≤ t.phase.toNat ∧ t.phase.toNat ≤ 9 ∧ (t.phase = Phase.done → s.phase = Phase.ser) := by
  obtain running | ⟨hser, hdone, _⟩ := h.running_or_done hs
  · obtain ⟨hlo, hhi⟩ := running.busy
    exact ⟨hlo, hhi.trans (by decide), fun hdone => absurd hhi (by rw [hdone]; decide)⟩
  · rw [hdone]; exact ⟨by decide, by decide, fun _ => hser⟩

/-- START is not accepted in a busy phase (R180). -/
theorem execStart_of_busy {s : State} (hb : 1 ≤ s.phase.toNat ∧ s.phase.toNat ≤ 8) (len : Nat) :
    execStart len s = .refused .startNotAccepted :=
  execStart_not_accepted len fun hp => not_busy_of_wait (hp.imp_right .inl) hb

/-- A move on the host's own side that spares the running message leaves it as it was. -/
theorem State.message_of_spared {s t : State} (hb : busyPhase s.phase = true) (hlen : t.len = s.len)
    (hmsg : s.Spares t.msg) : t.message = s.message := by
  rw [State.message, State.message, hlen]
  obtain same | ⟨j, b, written, spared⟩ := hmsg
  · rw [same]
  · rw [written]; exact Memory.message_write_above _ b (Nat.le_of_not_lt fun hj => spared ⟨hb, hj⟩)

/-- Settles O47, by who moves: the engine takes a row of the table, a START is not accepted, and the host on its own side writes no register
and spares the running message. -/
theorem noAbortButReset : Obligations.NoAbortButReset := by
  intro s t h hlo hhi e
  have hb := And.intro hlo hhi
  obtain ⟨hts, he⟩ | ⟨l, rest, _, he⟩ | ⟨c, rest, hts, rfl⟩ | ⟨ht, hmsg⟩ := step_moves e
  · obtain htr | ⟨hwait, _⟩ := engineStep_cases he
    · obtain ⟨hlen, _, hmsg, _⟩ := htr.frame
      obtain ⟨hlo', hhi', hdone⟩ := htr.phase_range ((h.putTurns _).running hb)
      refine .inl ⟨hlen, by rw [State.message, hmsg, hlen]; rfl, hlo', hhi', fun hd => ⟨hdone hd, hts⟩, fun m rest hm hne => ?_⟩
      obtain hts | ⟨rest', hts⟩ := hts <;> cases hts.symm.trans hm
      exact absurd rfl hne
    · exact absurd hb (not_busy_of_wait hwait)
  · cases (execStart_of_busy (s := s.putTurns rest) hb l.toNat).symm.trans he
  · exact .inr ⟨c, rest, hts, rfl⟩
  · have message := s.message_of_spared ((busyPhase_iff _).2 hb) (by rw [ht]; rfl) hmsg
    have phase : t.phase = s.phase := by rw [ht]; rfl
    refine .inl ⟨by rw [ht]; rfl, message, phase ▸ hlo, phase ▸ hhi.trans (by decide), fun hd => ?_, fun m rest hm hne => ?_⟩
    · exact absurd hhi (by rw [← phase, hd]; decide)
    · rw [ht]; exact ⟨rfl, rfl, rfl, rfl, rfl⟩

/-! ### The engine and the host's side

R189: what an instruction does in the registers does not depend on the host's side, but for the message. -/

theorem countOr_withHost (next : BitVec 4) (s u : State) : countOr next (s.withHost u) = (countOr next s).withHost u := by
  obtain ⟨hT, e⟩ | ⟨hT, e, _⟩ := countOr_cases next s
  · rw [e, countOr_last (s := s.withHost u) next hT]; rfl
  · rw [e, (countOr_more (s := s.withHost u) next hT).1]; rfl

theorem exec_loadblk_withHost {s t : State} (u : State) (hmsg : ∀ j, j < s.len.toNat → u.msg.read j = s.msg.read j)
    (h : exec .loadblk s = .next t) : exec .loadblk (s.withHost u) = .next (t.withHost u) := by
  obtain ⟨ws, hws, _, rfl⟩ := execLoadblk_next ((exec_loadblk s).symm.trans h)
  have same : blockWords (s.withHost u) s.blk.toNat 16 = .ok ws :=
    hws ▸ blockWords_congr le_rfl fun _ _ => padByte_putMsg s u.msg (hmsg _)
  exact (exec_loadblk (s.withHost u)).trans (execLoadblk_ok same)

theorem exec_feedfwd_withHost {s t : State} (u : State) (h : exec .feedfwd s = .next t) :
    exec .feedfwd (s.withHost u) = .next (t.withHost u) := by
  obtain ⟨hlast, e⟩ | ⟨hmore, e⟩ := execFeedfwd_cases s
  · cases e.symm.trans h; exact if_pos hlast
  · cases e.symm.trans h; exact if_neg hmore

theorem exec_start_withHost {len : Nat} {s t : State} (u : State) (h : exec (.start len) s = .next t) :
    exec (.start len) (s.withHost u) = .next (t.withHost u) := by
  obtain ⟨hp, hmax, e⟩ | ⟨hp, hover, e⟩ | ⟨_, _, e⟩ := execStart_cases len s <;> cases e.symm.trans h
  · exact execStart_accepted (s := s.withHost u) hp hmax
  · exact execStart_overflow (s := s.withHost u) hp hover

/-- An instruction that goes on does the same in the registers beside another host's side with the same message. -/
theorem exec_withHost {i : Instr} {s t : State} (u : State) (hmsg : ∀ j, j < s.len.toNat → u.msg.read j = s.msg.read j)
    (h : exec i s = .next t) : exec i (s.withHost u) = .next (t.withHost u) := by
  cases i with
  | waitIdle | waitDone | waitFault | nocmd | pad | inith | initwr | serialize => cases h; rfl
  | loadblk => exact exec_loadblk_withHost u hmsg h
  | expand =>
    obtain ⟨h16, rfl⟩ := execExpand_next h
    exact (exec_expand_of_le (s := s.withHost u) h16).trans
      (congrArg _ (countOr_withHost _ (s.putW (expandedW s.w s.t)) u))
  | round =>
    cases h
    exact (exec_round_eq (s.withHost u)).trans (congrArg _ (countOr_withHost _ (s.putWork s.roundedWork) u))
  | feedfwd => exact exec_feedfwd_withHost u h
  | start len => exact exec_start_withHost u h

theorem engineStep_withHost {s t : State} (u : State) (hmsg : ∀ j, j < s.len.toNat → u.msg.read j = s.msg.read j)
    (h : engineStep s = .next t) : engineStep (s.withHost u) = .next (t.withHost u) := by
  obtain ⟨i, hi, h⟩ := runCode_next h
  exact (engineStep_of_decode (s := s.withHost u) hi).trans (exec_withHost u hmsg h)

/-- The engine leaves the host's side, LEN and the legality of the codes. -/
theorem engineStep_frame {s t : State} (h : engineStep s = .next t) :
    t.len = s.len ∧ t.msg = s.msg ∧ t.turns = s.turns ∧ (s.CodesLegal → t.CodesLegal) := by
  obtain htr | ⟨_, rfl⟩ := engineStep_cases h
  · obtain ⟨hlen, hf, hmsg, hts⟩ := htr.frame
    refine ⟨hlen, hmsg, hts, fun hs => ⟨.inl ?_, hf ▸ hs.fcode_legal⟩⟩
    cases htr <;> simp [*]
  · exact ⟨rfl, rfl, rfl, id⟩

/-- R181, R183, R184, R33, R52: a dutiful move of the host goes on, on the host's own side; only a write changes MSG. -/
theorem step_dutiful {s : State} {m : Turn} {rest : List Turn} (hs : s.CodesLegal) (hts : s.turns = m :: rest)
    (hm : dutifulTurn s.len m = true) :
    ∃ t, step s = .next t ∧ t = s.withHost t ∧ t.turns = rest ∧ t.msg = hostWrites [m] s.msg := by
  rw [step_turn hs.stuck_none hts]
  cases m with
  | engine | reset c => cases hm
  | command c l =>
    obtain rfl : c = 0 := of_decide_eq_true hm
    exact ⟨_, rfl, rfl, rfl, rfl⟩
  | readStatus | writeStatus v => exact ⟨_, rfl, rfl, rfl, rfl⟩
  | readDigest =>
    refine ⟨_, rfl, ?_⟩
    rw [readDigest]
    split <;> exact ⟨rfl, rfl, rfl⟩
  | writeMsg j b =>
    obtain ⟨_, hj, _⟩ | ⟨_, e⟩ := writeMsg_cases j b (s.putTurns rest)
    · exact absurd hj (Nat.not_lt.2 (by simpa using hm))
    · exact ⟨_, e, rfl, rfl, rfl⟩

/-! ### A host that keeps its duty -/

/-- The second state has the registers and the message of the first, under a host's side of its own. -/
structure State.Shadows (s u : State) : Prop where
  registers : u = s.withHost u
  message : ∀ j, j < s.len.toNat → u.msg.read j = s.msg.read j

theorem State.Shadows.len_eq {s u : State} (h : s.Shadows u) : u.len = s.len := by rw [h.registers]; rfl

theorem State.Shadows.codesLegal {s u : State} (h : s.Shadows u) (hs : s.CodesLegal) : u.CodesLegal := by
  rw [h.registers]; exact ⟨hs.phase_legal, hs.fcode_legal⟩

theorem hostWrites_cons (m : Turn) (ts : List Turn) (mem : Memory) : hostWrites (m :: ts) mem = hostWrites ts (hostWrites [m] mem) := by
  cases m <;> rfl

/-- The engine's step is the same for a shadow, whose script loses the engine's turn. -/
theorem State.Shadows.step_engine {s s' u : State} {rest : List Turn} (h : s.Shadows u) (hs : s.CodesLegal) (hts : s.turns = [])
    (hu : u.turns = .engine :: rest) (e : step s = .next s') :
    ∃ u', step u = .next u' ∧ s'.Shadows u' ∧ u'.turns = rest ∧ u'.msg = u.msg ∧ s'.len = s.len ∧ s'.turns = [] ∧
      s'.CodesLegal := by
  have alone : engineStep s = .next s' := (Machine.step_engine hs.stuck_none hts).symm.trans e
  obtain ⟨hlen, hmsg, hts', hcodes⟩ := engineStep_frame alone
  have registers : u.putTurns rest = s.withHost (u.putTurns rest) := by rw [h.registers]; rfl
  have beside : engineStep (u.putTurns rest) = .next (s'.withHost (u.putTurns rest)) :=
    (congrArg engineStep registers).trans (engineStep_withHost (u.putTurns rest) h.message alone)
  refine ⟨_, (step_turn (h.codesLegal hs).stuck_none hu).trans beside, ⟨rfl, fun j hj => ?_⟩, rfl, rfl, hlen, hts'.trans hts,
    hcodes hs⟩
  rw [hmsg]
  exact h.message j (hlen ▸ hj)

/-- A dutiful move keeps the shadow. -/
theorem State.Shadows.step_dutiful {s u : State} {m : Turn} {rest : List Turn} (h : s.Shadows u) (hs : s.CodesLegal)
    (hu : u.turns = m :: rest) (hm : dutifulTurn s.len m = true) :
    ∃ u', step u = .next u' ∧ s.Shadows u' ∧ u'.turns = rest ∧ u'.msg = hostWrites [m] u.msg := by
  obtain ⟨u', e, hreg, hrest, hmsg⟩ := Machine.step_dutiful (h.codesLegal hs) hu (h.len_eq ▸ hm)
  refine ⟨u', e, ⟨?_, fun j hj => ?_⟩, hrest, hmsg⟩
  · rw [hreg, h.registers]; rfl
  · rw [hmsg, hostWrites_read_below (ts := [m]) (by simpa using .inr hm) _ hj, h.message j hj]

/-- R189, R52: beside a run of the engine alone, the run of its steps with dutiful moves between them. -/
theorem State.Shadows.run {ts : List Turn} {s t u : State} (h : s.Shadows u) (hs : s.CodesLegal) (hts : s.turns = [])
    (hu : u.turns = ts) (hduty : ∀ m ∈ ts, m = .engine ∨ dutifulTurn s.len m = true)
    (hrun : Sys2Proof.core.run (ts.count .engine) s = .next t) :
    ∃ t' : State, Sys2Proof.core.run ts.length u = .next t' ∧ t.Shadows t' ∧ t'.turns = [] ∧ t'.msg = hostWrites ts u.msg := by
  induction ts generalizing s u with
  | nil =>
    cases hrun
    exact ⟨u, rfl, h, hu, rfl⟩
  | cons m ts ih =>
    have hduty' : ∀ x ∈ ts, x = .engine ∨ dutifulTurn s.len x = true := fun x hx => hduty x (List.mem_cons_of_mem m hx)
    by_cases hm : m = .engine
    · subst hm
      rw [List.count_cons_self] at hrun
      obtain ⟨s', e, hrun⟩ := run_succ_inv hrun
      obtain ⟨u', e', h', hu', hmsg, hlen, hts', hs'⟩ := h.step_engine hs hts hu e
      obtain ⟨t', hrun', ht'⟩ := ih h' hs' hts' hu' (hlen ▸ hduty') hrun
      exact ⟨t', (run_succ ts.length e').trans hrun', hmsg ▸ ht'⟩
    · rw [List.count_cons_of_ne hm] at hrun
      obtain ⟨u', e', h', hu', hmsg⟩ := h.step_dutiful hs hu ((hduty m List.mem_cons_self).resolve_left hm)
      obtain ⟨t', hrun', ht'⟩ := ih h' hs hts hu' hduty' hrun
      rw [hostWrites_cons, ← hmsg]
      exact ⟨t', (run_succ ts.length e').trans hrun', ht'⟩

/-- A state under another script is a shadow. -/
theorem State.shadows_putTurns (s : State) (ts ts' : List Turn) : (s.putTurns ts).Shadows (s.putTurns ts') := ⟨rfl, fun _ _ => rfl⟩

theorem State.Shadows.message_eq {s u : State} (h : s.Shadows u) : u.message = s.message := by
  rw [State.message, State.message, h.len_eq]
  exact List.map_congr_left fun j hj => h.message j (List.mem_range.1 hj)

/-- Settles O57: the state with the script is a shadow of the one without, and stays one at each engine step and each dutiful move. -/
theorem quietHostMovesDoNotDisturbTheEngine : Obligations.QuietHostMovesDoNotDisturbTheEngine := by
  intro ts s t hs hduty hrun
  obtain ⟨t', hrun', h, hturns, hmsg⟩ := (s.shadows_putTurns [] ts).run (hs.putTurns []) rfl rfl hduty hrun
  refine ⟨t', hrun', hturns, ?_, h.message_eq⟩
  rw [h.registers, ← show t'.msg = hostWrites ts s.msg from hmsg]
  rfl

/-! ### The digest of a transaction -/

/-- The second state differs from the first only in the registers a transaction computes with between LOAD and SER. -/
def State.ComputesTo (s t : State) : Prop :=
  t = { s with hash := t.hash, work := t.work, w := t.w, t := t.t, blk := t.blk, phase := t.phase }

theorem State.ComputesTo.trans {s t u : State} (h : s.ComputesTo t) (h' : t.ComputesTo u) : s.ComputesTo u := by
  rw [State.ComputesTo] at h h' ⊢
  rw [h', h]

theorem State.ComputesTo.frame {s t : State} (h : s.ComputesTo t) :
    t.fcode = s.fcode ∧ t.turns = s.turns ∧ t.nblk = s.nblk ∧ t.message = s.message := by
  rw [h]; exact ⟨rfl, rfl, rfl, rfl⟩

theorem State.ComputesTo.geometry {s t : State} (h : s.ComputesTo t) (hs : s.Geometry) : t.Geometry := by
  rw [h]; exact ⟨hs.len_bound, hs.bitlen_eq, hs.nblk_eq⟩

/-- R142, R157: the 115 operations of a block, from phase LOAD. -/
theorem State.Geometry.run_block {s : State} (h : s.Geometry) (hf : s.fcode ≠ 3) (hts : s.turns = []) (hp : s.phase = Phase.load)
    (hblk : s.blk.toNat < s.nblk.toNat) :
    ∃ t : State, Sys2Proof.core.run 115 s = .next t ∧ t.hash = compress s.hash (splitBlock (padMessage s.message) s.blk.toNat) ∧
      (s.blk.toNat + 1 = s.nblk.toNat → t.phase = Phase.ser) ∧
      (s.blk.toNat + 1 ≠ s.nblk.toNat → t.phase = Phase.load ∧ t.blk.toNat = s.blk.toNat + 1) ∧ s.ComputesTo t := by
  obtain ⟨w, k, hsched, hw⟩ := h.run_schedule hf hts hp hblk
  obtain ⟨r, k', b, p, hcomp, last, more⟩ := run_compression (s := ((s.putW w).putT k).putPhase Phase.initwr) hf hts rfl hblk hw
  exact ⟨_, (run_add 49 66 hsched).trans hcomp, rfl, fun hlast => (last hlast).2, fun hmore => (more hmore).symm, rfl⟩

/-- R155, R188: the blocks that are left chain H over the blocks of the padded message. -/
theorem State.Geometry.run_blocks {n : Nat} {s : State} (h : s.Geometry) (hf : s.fcode ≠ 3) (hts : s.turns = [])
    (hp : s.phase = Phase.load) (hn : s.blk.toNat + (n + 1) = s.nblk.toNat)
    (hhash : s.hash = chainedHash (padMessage s.message) s.blk.toNat) :
    ∃ t : State, Sys2Proof.core.run (115 * (n + 1)) s = .next t ∧ t.phase = Phase.ser ∧
      t.hash = chainedHash (padMessage s.message) s.nblk.toNat ∧ s.ComputesTo t := by
  induction n generalizing s with
  | zero =>
    obtain ⟨t, hrun, hash, last, _, hst⟩ := h.run_block hf hts hp (by omega)
    exact ⟨t, hrun, last hn, by rw [hash, hhash, ← chainedHash_succ, ← hn], hst⟩
  | succ n ih =>
    obtain ⟨t, hrun, hash, _, more, hst⟩ := h.run_block hf hts hp (by omega)
    obtain ⟨hload, hblk⟩ := more (by omega)
    obtain ⟨hf', hts', hnblk, hmsg⟩ := hst.frame
    have chained : t.hash = chainedHash (padMessage t.message) t.blk.toNat := by
      rw [hash, hhash, ← chainedHash_succ, hmsg, hblk]
    obtain ⟨u, hrun', hser, hash', htu⟩ :=
      ih (hst.geometry h) (hf' ▸ hf) (hts'.trans hts) hload (by rw [hblk, hnblk]; omega) chained
    rw [hmsg, hnblk] at hash'
    exact ⟨u, by rw [Nat.mul_succ, Nat.add_comm, run_add 115 _ hrun, hrun'], hser, hash', hst.trans htu⟩

/-- R120, R182: the state that PAD and INITH leave. -/
def State.atFirstBlock (s : State) : State :=
  (((((s.putBitlen (bitlenOf s.len)).putNblk (nblkOf s.len)).putPhase Phase.inith).putHash iv).putBlk 0).putPhase Phase.load

theorem State.run_pad_inith {s : State} (hf : s.fcode ≠ 3) (hts : s.turns = []) (hp : s.phase = Phase.pad) :
    Sys2Proof.core.run 2 s = .next s.atFirstBlock := by
  have hpad : step s = .next (((s.putBitlen (bitlenOf s.len)).putNblk (nblkOf s.len)).putPhase Phase.inith) :=
    stepRunsTheDecodedInstruction.1 s .pad hf hts (by rw [hp]; rfl)
  exact (run_succ 1 hpad).trans (run_succ 0 (stepRunsTheDecodedInstruction.1 _ .inith hf hts rfl))

theorem State.atFirstBlock_geometry {s : State} (hlen : s.len.toNat ≤ Config.maxLen) : s.atFirstBlock.Geometry :=
  ⟨hlen, bitlenOf_toNat hlen, nblkOf_toNat hlen⟩

/-- The end of a transaction that began in the first state: DONE, with the digest of the message. -/
structure State.EndsIn (s t : State) : Prop where
  phase : t.phase = Phase.done
  digest : digestOf s.message = .ok t.digest.toList
  digestSet : t.digestSet = true
  fcode : t.fcode = s.fcode
  msg : t.msg = s.msg
  replies : t.replies = s.replies

/-- R171, R187: the digest of the hash state of the last block is that of the message. Its bytes are a variable with an equation, so that no
comparison of states evaluates them. -/
theorem State.ComputesTo.endsIn {s u : State} {d : Vector Byte 32} (h : s.atFirstBlock.ComputesTo u)
    (hlen : s.len.toNat ≤ Config.maxLen) (hash : u.hash = chainedHash (padMessage s.message) (blockCount s.len.toNat))
    (hd : d.toList = serialize u.hash) : s.EndsIn ((u.putDigest d).putPhase Phase.done) where
  phase := rfl
  digest := by
    rw [digestOf_eq (by rwa [s.message_length]), s.message_length, ← hash, ← hd]
    rfl
  digestSet := rfl
  fcode := h.frame.1
  msg := by rw [h]; rfl
  replies := by rw [h]; rfl

/-- R188: PAD and INITH, the blocks, and SERIALIZE. -/
theorem State.run_transaction {s : State} (hf : s.fcode ≠ 3) (hts : s.turns = []) (hp : s.phase = Phase.pad)
    (hlen : s.len.toNat ≤ Config.maxLen) :
    ∃ t : State, Sys2Proof.core.run (3 + 115 * blockCount s.len.toNat) s = .next t ∧ s.EndsIn t := by
  have hblocks : s.atFirstBlock.nblk.toNat = blockCount s.len.toNat := nblkOf_toNat hlen
  obtain ⟨n, hn⟩ : ∃ n, blockCount s.len.toNat = n + 1 := ⟨_, rfl⟩
  obtain ⟨u, hrun, hser, hash, hsu⟩ := (State.atFirstBlock_geometry hlen).run_blocks (n := n) hf hts rfl
    (by rw [hblocks, hn]; exact Nat.zero_add _) rfl
  obtain ⟨hf', hts', _, hmsg⟩ := hsu.frame
  have hlast := (stepRunsTheDecodedInstruction.1 u .serialize (hf' ▸ hf) (hts'.trans hts) (by rw [hser]; rfl)).trans
    (exec_serialize_eq u)
  refine ⟨_, ?_, hsu.endsIn hlen (hblocks ▸ hash) (digestBytes_toList u.hash)⟩
  rw [hn, show 3 + 115 * (n + 1) = 2 + (115 * (n + 1) + 1) by omega, run_add 2 _ (State.run_pad_inith hf hts hp),
    run_add _ 1 hrun]
  exact run_succ 0 hlast

/-! ### START and the transaction -/

/-- The state after an accepted START of a length, with a script to come. -/
def State.accepted (s : State) (len : BitVec 64) (ts : List Turn) : State := ((s.putTurns ts).putLen len).putPhase Phase.pad

/-- R180: an accepted START begins a transaction, with the script behind it to come. -/
theorem step_start {s : State} {len : BitVec 64} {ts : List Turn} (hp : s.phase = Phase.idle ∨ s.phase = Phase.done)
    (hf : s.fcode ≠ 3) (hlen : len.toNat ≤ Config.maxLen) (hts : s.turns = .command 1 len :: ts) :
    step s = .next (s.accepted len ts) := by
  have hs : s.CodesLegal := ⟨.inl (by obtain hp | hp := hp <;> rw [hp] <;> decide), hf⟩
  have start : execStart len.toNat (s.putTurns ts) = .next (s.accepted len ts) := by
    rw [execStart_accepted (s := s.putTurns ts) hp hlen, BitVec.ofNat_toNat, BitVec.setWidth_eq]; rfl
  exact (stepRunsTheDecodedInstruction.2.2 s (.start len.toNat) 1 len ts hs hts rfl).trans start

/-- R188: the transaction of an accepted START, with the engine alone. -/
theorem run_accepted {s : State} {len : BitVec 64} (hf : s.fcode ≠ 3) (hlen : len.toNat ≤ Config.maxLen) :
    ∃ t : State, Sys2Proof.core.run (3 + 115 * blockCount len.toNat) (s.accepted len []) = .next t ∧ (s.accepted len []).EndsIn t :=
  State.run_transaction (s := s.accepted len []) hf rfl rfl hlen

/-- R188: START and the engine alone. -/
theorem run_start {s : State} {len : BitVec 64} (hp : s.phase = Phase.idle ∨ s.phase = Phase.done)
    (hf : s.fcode ≠ 3) (hlen : len.toNat ≤ Config.maxLen) (hts : s.turns = [.command 1 len]) :
    ∃ t : State, Sys2Proof.core.run (1 + (3 + 115 * blockCount len.toNat)) s = .next t ∧ (s.accepted len []).EndsIn t := by
  obtain ⟨t, hrun, hend⟩ := run_accepted (s := s) hf hlen
  exact ⟨t, (run_add 1 _ (run_succ 0 (step_start hp hf hlen hts))).trans hrun, hend⟩

/-- R188, R189: START and a script with an engine turn for each operation of the transaction, and dutiful moves of the host. -/
theorem run_start_dutiful {s : State} {len : BitVec 64} {ts : List Turn} (hp : s.phase = Phase.idle ∨ s.phase = Phase.done)
    (hf : s.fcode ≠ 3) (hlen : len.toNat ≤ Config.maxLen) (hts : s.turns = .command 1 len :: ts)
    (hduty : ∀ m ∈ ts, m = .engine ∨ dutifulTurn len m = true) (hcount : ts.count .engine = 3 + 115 * blockCount len.toNat) :
    ∃ t t' : State, Sys2Proof.core.run (1 + ts.length) s = .next t' ∧ (s.accepted len []).EndsIn t ∧ t.Shadows t' ∧
      t'.turns = [] ∧ t'.msg = hostWrites ts s.msg := by
  obtain ⟨t, hrun, hend⟩ := run_accepted (s := s) hf hlen
  have hs : (s.accepted len []).CodesLegal := ⟨.inl (by simp [State.accepted]), hf⟩
  have hshadow : (s.accepted len []).Shadows (s.accepted len ts) := ⟨rfl, fun _ _ => rfl⟩
  obtain ⟨t', hrun', ht'⟩ := hshadow.run hs rfl rfl hduty (hcount ▸ hrun)
  exact ⟨t, t', (run_add 1 _ (run_succ 0 (step_start hp hf hlen hts))).trans hrun', hend, ht'⟩

/-- Settles O55: the transaction of the engine alone, and its shadow, which ends in the same registers. -/
theorem transactionComputesTheDigest : Obligations.TransactionComputesTheDigest := by
  refine ⟨fun s len hp hf hlen hts => ?_, fun s len ts hp hf hlen hts hduty hcount => ?_⟩
  · obtain ⟨t, hrun, hend⟩ := run_start hp hf hlen hts
    exact ⟨t, _, hrun, hend.phase, hend.digest, rfl, hend.digestSet, hend.fcode, hend.msg, hend.replies⟩
  · obtain ⟨t, t', hrun, hend, hshadow, hturns, hmsg⟩ := run_start_dutiful hp hf hlen hts hduty hcount
    refine ⟨t', t.digest.toList, hrun, hturns, ?_⟩
    rw [← hmsg, hshadow.registers]
    exact ⟨hend.phase, hend.digest, rfl, hend.digestSet, hend.fcode, rfl⟩

/-- Settles O56: each machine ends with the digest of its message, and the messages are the same. -/
theorem transactionsAreIndependent : Obligations.TransactionsAreIndependent := by
  intro s s' len hp hp' hf hf' hlen hmsg hts hts'
  obtain ⟨t, hrun, hend⟩ := run_start hp hf hlen hts
  obtain ⟨t', hrun', hend'⟩ := run_start hp' hf' hlen hts'
  have same : s.msg.message len.toNat = s'.msg.message len.toNat :=
    List.map_congr_left fun j hj => hmsg j (List.mem_range.1 hj)
  have digests : (Except.ok t.digest.toList : Except HwFault _) = .ok t'.digest.toList :=
    hend.digest.symm.trans ((congrArg digestOf same).trans hend'.digest)
  exact ⟨t, t', hrun, hrun', Vector.toList_inj.1 (Except.ok.inj digests), hend.phase, hend'.phase⟩

end Sys2Proof.Machine
end

section
/-! The exceptions family (60_exceptions.md): the fault action (R205), the phase FAULT and its only way out (R210), what can stop a step of a
legal state (R203), and the instances of a platform under any interleaving (R216). -/

namespace Sys2Proof.Machine

/-! ### Faults -/

/-- Settles O37: the fault action is its two updates, with the codes of R200. -/
theorem faultActionWritesOnlyCodeAndPhase : Obligations.FaultActionWritesOnlyCodeAndPhase := fun _ => ⟨rfl, rfl⟩

/-- R186: no row of the transition table starts in FAULT, so the engine only waits there. -/
theorem engineStep_of_fault {s t : State} (hp : s.phase = Phase.fault) (h : engineStep s = .next t) : t = s := by
  obtain htr | ⟨_, same⟩ := engineStep_cases h
  · exact absurd hp (phase_ne_fault_of_busy htr.busy)
  · exact same

/-- R180: START is not accepted in FAULT. -/
theorem execStart_of_fault {s : State} (hp : s.phase = Phase.fault) (len : Nat) : execStart len s = .refused .startNotAccepted :=
  execStart_not_accepted len (by rw [hp]; decide)

/-- Settles O45, by who moves: the engine waits, a START is not accepted, and the host on its own side writes no register; reset is left. -/
theorem faultIsLeftByResetOnly : Obligations.FaultIsLeftByResetOnly := by
  intro s t hp e
  obtain ⟨_, he⟩ | ⟨l, rest, _, he⟩ | ⟨c, rest, hts, rfl⟩ | ⟨ht, _⟩ := step_moves e
  · rw [engineStep_of_fault (s := s.putTurns s.turns.tail) hp he]
    exact .inl ⟨hp, rfl⟩
  · cases (execStart_of_fault (s := s.putTurns rest) hp l.toNat).symm.trans he
  · exact .inr ⟨c, rest, hts, rfl, rfl⟩
  · rw [ht]; exact .inl ⟨hp, rfl⟩

/-! ### What can stop a step of a legal state -/

theorem busy_or_wait_of_phase_legal {p : BitVec 4} (h : p.toNat ≤ 9 ∨ p = Phase.fault) :
    (1 ≤ p.toNat ∧ p.toNat ≤ 8) ∨ p = Phase.idle ∨ p = Phase.done ∨ p = Phase.fault := by
  revert p; decide

/-- R185: the engine goes on in the phases with no operation. -/
theorem engineStep_of_wait {s : State} (hp : s.phase = Phase.idle ∨ s.phase = Phase.done ∨ s.phase = Phase.fault) :
    engineStep s = .next s := by
  obtain hp | hp | hp := hp
  · exact engineStep_of_decode (i := .waitIdle) (by rw [hp]; rfl)
  · exact engineStep_of_decode (i := .waitDone) (by rw [hp]; rfl)
  · exact engineStep_of_decode (i := .waitFault) (by rw [hp]; rfl)

/-- R203: the engine of a legal state always goes on. -/
theorem State.Inv.engineStep_next {s : State} (h : s.Inv) : ∃ t, engineStep s = .next t := by
  obtain busy | wait := busy_or_wait_of_phase_legal h.phase_legal
  · exact (h.running busy).engineStep_next
  · exact ⟨s, engineStep_of_wait wait⟩

/-- The refusal answers the next move, in which the host breaks a duty: a reserved command, a START that is not accepted, or a write to the
running message (R190, U1, U2, U3). -/
inductive State.HostBreach (s : State) : Refusal → Prop where
  | reservedCommand {c : BitVec 2} {l : BitVec 64} {rest : List Turn} : s.turns = .command c l :: rest → 2 ≤ c.toNat →
      s.HostBreach (.reservedCommand c)
  | startNotAccepted {l : BitVec 64} {rest : List Turn} : s.turns = .command 1 l :: rest → s.phase ≠ Phase.idle →
      s.phase ≠ Phase.done → s.HostBreach .startNotAccepted
  | messageHeld {j : BitVec 61} {b : Byte} {rest : List Turn} : s.turns = .writeMsg j b :: rest → busyPhase s.phase = true →
      j.toNat < s.len.toNat → s.HostBreach .messageHeld

theorem State.HostBreach.hostRefusal {s : State} {r : Refusal} (h : s.HostBreach r) : hostRefusal r = true := by
  cases h <;> rfl

/-- A command goes on, or is a breach. -/
theorem runCode_cmd_next_or_breach {s : State} {c : BitVec 2} {l : BitVec 64} {rest : List Turn}
    (hts : s.turns = .command c l :: rest) :
    (∃ t, runCode (.cmd c l) (s.putTurns rest) = .next t) ∨
    ∃ r, runCode (.cmd c l) (s.putTurns rest) = .refused r ∧ s.HostBreach r := by
  obtain ⟨rfl, e⟩ | ⟨rfl, e⟩ | ⟨hc, _⟩ := decodeCmd_cases c l
  · exact .inl ⟨_, runCode_of_decode (c := .cmd 0 l) _ e⟩
  · have run := runCode_of_decode (c := .cmd 1 l) (s.putTurns rest) e
    obtain ⟨_, _, e'⟩ | ⟨_, _, e'⟩ | ⟨hidle, hdone, e'⟩ := execStart_cases l.toNat (s.putTurns rest)
    · exact .inl ⟨_, run.trans e'⟩
    · exact .inl ⟨_, run.trans e'⟩
    · exact .inr ⟨_, run.trans e', .startNotAccepted hts hidle hdone⟩
  · exact .inr ⟨_, runCode_reservedCmd l _ hc, .reservedCommand hts hc⟩

/-- R203, R190: a scripted move of a legal state goes on, or is a breach of the host. -/
theorem State.Inv.turnStep_next_or_breach {s : State} (h : s.Inv) {m : Turn} {rest : List Turn} (hts : s.turns = m :: rest) :
    (∃ t, turnStep m (s.putTurns rest) = .next t) ∨ ∃ r, turnStep m (s.putTurns rest) = .refused r ∧ s.HostBreach r := by
  cases m with
  | engine => exact .inl (h.putTurns rest).engineStep_next
  | command c l => exact runCode_cmd_next_or_breach hts
  | readStatus | readDigest | writeStatus v | reset c => exact .inl ⟨_, rfl⟩
  | writeMsg j b =>
    obtain ⟨busy, hj, e⟩ | ⟨_, e⟩ := writeMsg_cases j b (s.putTurns rest)
    · exact .inr ⟨_, e, .messageHeld hts busy hj⟩
    · exact .inl ⟨_, e⟩

/-- R203, R190: a step of a legal state goes on, or is a breach of the host. -/
theorem State.Inv.step_next_or_breach {s : State} (h : s.Inv) :
    (∃ t, step s = .next t) ∨ ∃ r, step s = .refused r ∧ s.HostBreach r := by
  have free := h.codesLegal.stuck_none
  rcases hts : s.turns with _ | ⟨m, rest⟩
  · rw [step_engine free hts]; exact .inl h.engineStep_next
  · rw [step_turn free hts]; exact h.turnStep_next_or_breach hts

/-- Settles O50: a legal state goes on, or the host has broken one of its duties, and the refusal says which. -/
theorem legalStatesStepSafely : Obligations.LegalStatesStepSafely := by
  intro s h
  obtain ⟨t, e⟩ | ⟨r, e, breach⟩ := h.step_next_or_breach
  · exact e ▸ ⟨trivial, fun _ hr => nomatch hr⟩
  · refine e ▸ ⟨breach.hostRefusal, fun r' hr => ?_⟩
    cases hr
    cases breach with
    | reservedCommand hts hc => exact .inl ⟨_, _, _, hts, hc, rfl⟩
    | startNotAccepted hts hidle hdone => exact .inr (.inl ⟨_, _, hts, hidle, hdone, rfl⟩)
    | messageHeld hts busy hj =>
      obtain ⟨hlo, hhi⟩ := (busyPhase_iff _).1 busy
      exact .inr (.inr ⟨_, _, _, hts, hlo, hhi, hj, rfl⟩)

/-! ### Interleavings of the instances -/

/-- A run of a platform that goes on begins with a step that goes on. -/
theorem Platform.run_cons_inv {k : Nat} {ks : List Nat} {p q : Platform} (h : Platform.run (k :: ks) p = .next q) :
    ∃ p', Platform.stepAt k p = .next p' ∧ Platform.run ks p' = .next q := by
  rw [Platform.run] at h
  split at h
  · rename_i p' e; exact ⟨p', e, h⟩
  · cases h
  · cases h

/-- Settles O59, by induction on the interleaving: instance k makes its own step where its number comes, and no step of another instance
changes it. -/
theorem interleavedInstancesRunAlone : Obligations.InterleavedInstancesRunAlone := by
  intro ks
  induction ks with
  | nil => intro p q h k s hs; cases h; exact ⟨s, rfl, hs⟩
  | cons j ks ih =>
    intro p q h k s hs
    obtain ⟨p', hstep, hrun⟩ := Platform.run_cons_inv h
    obtain ⟨_, others, s₀, s', hs₀, e, hs'⟩ := instancesDoNotInteract p p' j hstep
    by_cases hk : k = j
    · subst hk
      obtain rfl : s₀ = s := Option.some_inj.1 (hs₀.symm.trans hs)
      obtain ⟨t, alone, ht⟩ := ih p' q hrun k s' hs'
      rw [List.count_cons_self]
      exact ⟨t, (run_succ _ e).trans alone, ht⟩
    · rw [List.count_cons_of_ne (Ne.symm hk)]
      exact ih p' q hrun k s ((others k hk).trans hs)

end Sys2Proof.Machine
end

section
/-! The reset family (70_reset_and_hazards.md): the reset action in any phase (R230, R231), and that it wins over what coincides with it
(R207). -/

namespace Sys2Proof.Machine

/-- R33: in IDLE with no fault code no bit of STATUS is set. -/
theorem State.status_of_idle {s : State} (hp : s.phase = Phase.idle) (hf : s.fcode = 0) : s.status = 0x00 := by
  rw [State.status, hp, hf]; decide

@[simp] theorem resetAction_status (s : State) : (resetAction s).status = 0x00 :=
  State.status_of_idle (resetAction_phase s) (resetAction_fcode s)

/-- R207, log 19: what coincides with a reset makes no difference to the step. -/
theorem step_reset_coincident {s : State} {c : Option Instr} {rest : List Turn} (h : s.turns = .reset c :: rest) (c' : Option Instr) :
    step (s.putTurns (.reset c' :: rest)) = step s :=
  (step_reset (State.putTurns_turns s _)).trans (step_reset h).symm

/-- Settles O39: in every state the step is the reset action, which writes the two codes and spares the host's side. -/
theorem resetWinsInEveryPhase : Obligations.ResetWinsInEveryPhase := by
  intro s c rest h
  have hstep := step_reset h
  exact ⟨resetAction (s.putTurns rest), hstep, resetAction_phase _, resetAction_fcode _, resetAction_status _, resetAction_msg _,
    resetAction_turns _, resetAction_replies _, (step_reset_coincident h none).trans hstep⟩

end Sys2Proof.Machine
end
